-- ==== Sys2Proof/Word.lean ====
section
/-! DEFINITION. The word types of the link core: bytes and 16-bit fields (00_scope.md R8). -/

namespace Sys2Proof

/-- A byte (R8: bits 7 down to 0); also the `u8` of the rules. -/
abbrev Byte := BitVec 8

/-- The 16-bit pattern of an `int16` field (R8, R79); its value is `BitVec.toInt`. -/
abbrev I16 := BitVec 16

end Sys2Proof
end

