-- ==== Sys2Proof/Config.lean ====
section
/-! DEFINITION. The implementation parameters (00_scope.md R6), every one of them an argument of the
model: `State` carries one `Config` and no event writes it (10_state.md R20; log entries 1, 2 and 3). -/

namespace Sys2Proof

/-- The transport target of `TPC(CONNECT)`: build-time configuration (R35, D23, U11). No rule reads it. -/
structure TransportTarget where
  host : List Byte
  port : Nat
deriving DecidableEq, Repr

/-- The parameters of R6. -/
structure Config where
  /-- `SOF`, the start sentinel. -/
  sof : Byte
  /-- `EOF`, the end sentinel. -/
  eof : Byte
  /-- `MAX_PAYLOAD`, the longest payload the encoder accepts. -/
  maxPayload : Nat
  /-- `HDR_LEN`: SOF, kind, len. Read by the derived lengths only: no other rule names it, and the
  layout rules write its value (R70; log entry 3). -/
  hdrLen : Nat
  /-- `MIN_FRAME`, the guard of the reassembly loop. -/
  minFrame : Nat
  /-- `KIND_HEARTBEAT`. -/
  kindHeartbeat : Byte
  /-- `KIND_MOVE`. -/
  kindMove : Byte
  /-- `KIND_CONTROL`. -/
  kindControl : Byte
  /-- `KIND_TARGET`. -/
  kindTarget : Byte
  /-- `LEN_HEARTBEAT`. -/
  lenHeartbeat : Nat
  /-- `LEN_MOVE`. -/
  lenMove : Nat
  /-- `LEN_CONTROL`. -/
  lenControl : Nat
  /-- `LEN_TARGET`. -/
  lenTarget : Nat
  /-- `HB_PERIOD`, in ticks. -/
  hbPeriod : Nat
  /-- `HB_MISS_LIMIT`. -/
  hbMissLimit : Nat
  /-- `RETRY_PERIOD`, in ticks. -/
  retryPeriod : Nat
  /-- `RX_CAP`, the capacity of the reassembly buffer in bytes (OPEN, D4). -/
  rxCap : Nat
  /-- `CHUNK_MAX`, bytes per RX_CHUNK (OPEN, D3, D35). -/
  chunkMax : Nat
  /-- `CDC_DEPTH`, the ingress depth (OPEN, read by no rule, R59). -/
  cdcDepth : Nat
  /-- `TICK_DURATION` (OPEN, read by no rule, R242). -/
  tickDuration : Nat
  /-- The transport target (D23). -/
  target : TransportTarget
deriving DecidableEq, Repr

/-- This hardware: the tabled values of R6. The parameters R6 marks OPEN have no default and are
arguments. -/
def Config.hardware (rxCap chunkMax cdcDepth tickDuration : Nat) (target : TransportTarget) :
    Config where
  sof := 0xAA
  eof := 0x55
  maxPayload := 252
  hdrLen := 3
  minFrame := 4
  kindHeartbeat := 0x00
  kindMove := 0x01
  kindControl := 0x02
  kindTarget := 0x03
  lenHeartbeat := 0
  lenMove := 6
  lenControl := 4
  lenTarget := 4
  hbPeriod := 2
  hbMissLimit := 3
  retryPeriod := 3
  rxCap := rxCap
  chunkMax := chunkMax
  cdcDepth := cdcDepth
  tickDuration := tickDuration
  target := target

/-- The configuration `State.reset` carries. The OPEN parameters are a DESIGN CHOICE (log entry 2):
`RX_CAP` 1024 is the value 95_test_vectors.md uses unless it says otherwise, `CHUNK_MAX` 65535 is the
largest R6 allows. -/
def Config.chosen : Config := Config.hardware 1024 65535 1 1 { host := [], port := 0 }

/-- `MAX_VALID_FRAME` = `MAX_PAYLOAD` + 4: header, longest payload, EOF (R6, R105). -/
def Config.maxValidFrame (c : Config) : Nat := c.maxPayload + (c.hdrLen + 1)

/-- `MAX_STRUCT_FRAME` = 255 + 4: header, the largest length byte, EOF (R6, R106). -/
def Config.maxStructFrame (c : Config) : Nat := 255 + (c.hdrLen + 1)

/-- The known frame kinds (R74). -/
inductive FrameKind where
  | heartbeat
  | move
  | control
  | target
deriving DecidableEq, Repr

end Sys2Proof
end

