-- ==== Sys2Proof/Machine/Codec.lean ====
section
/-! DEFINITION. The frame kinds' numbers and payload lengths (00_scope.md R6, 30_encoding.md R74), and the
Frame Codec's two pure functions (40_codec.md R100–R106). -/

namespace Sys2Proof

/-- `KIND_HEARTBEAT`, `KIND_MOVE`, `KIND_CONTROL`, `KIND_TARGET` (R6, R74). -/
def Config.kindCode (c : Config) : FrameKind → Byte
  | .heartbeat => c.kindHeartbeat
  | .move => c.kindMove
  | .control => c.kindControl
  | .target => c.kindTarget

/-- `LEN_HEARTBEAT`, `LEN_MOVE`, `LEN_CONTROL`, `LEN_TARGET` (R6, R74). -/
def Config.kindLen (c : Config) : FrameKind → Nat
  | .heartbeat => c.lenHeartbeat
  | .move => c.lenMove
  | .control => c.lenControl
  | .target => c.lenTarget

/-- The bytes that a kind's payload fields take: three int16, four u8, two int16 (R75–R78). -/
def FrameKind.fieldBytes : FrameKind → Nat
  | .heartbeat => 0
  | .move => 6
  | .control => 4
  | .target => 4

/-- The known kind a kind byte names, in the order of R140's cases; `none` for an unassigned kind (R81). -/
def Config.kindOf (c : Config) (k : Byte) : Option FrameKind :=
  if k = c.kindHeartbeat then some .heartbeat
  else if k = c.kindMove then some .move
  else if k = c.kindControl then some .control
  else if k = c.kindTarget then some .target
  else none

/-- A kind can be told from the kinds before it, and its fields lie inside a payload that the length byte
can say. -/
def Config.hasKind (c : Config) (k : FrameKind) : Bool :=
  decide (c.kindOf (c.kindCode k) = some k) && decide (k.fieldBytes ≤ c.kindLen k) &&
    decide (c.kindLen k ≤ 255)

/-- The kinds and payload lengths are the numbers of R74. -/
def Config.framesTabled (c : Config) : Bool :=
  decide (c.kindHeartbeat = 0x00) && decide (c.kindMove = 0x01) && decide (c.kindControl = 0x02) &&
  decide (c.kindTarget = 0x03) && decide (c.lenHeartbeat = 0) && decide (c.lenMove = 6) &&
  decide (c.lenControl = 4) && decide (c.lenTarget = 4)

end Sys2Proof

namespace Sys2Proof.Machine

/-- `total = len + 4` (R70, R73). -/
def frameTotal (len : Byte) : Nat := len.toNat + 4

/-- The bytes of a frame: `[SOF, kind, |payload|] ++ payload ++ [EOF]` (R70). -/
def frameBytes (c : Config) (kind : Byte) (payload : List Byte) : List Byte :=
  [c.sof, kind, BitVec.ofNat 8 payload.length] ++ payload ++ [c.eof]

/-- The error of `encode` (R101). -/
inductive EncodeError where
  /-- `PayloadTooLarge(|payload|)`. -/
  | payloadTooLarge (len : Nat)
deriving DecidableEq, Repr

/-- `encode(kind, payload)` (R100, R101). -/
def encodeFrame (c : Config) (kind : Byte) (payload : List Byte) : Except EncodeError (List Byte) :=
  if c.maxPayload < payload.length then .error (.payloadTooLarge payload.length)
  else .ok (frameBytes c kind payload)

/-- The three results of `decode` (R102). -/
inductive DecodeResult where
  | frame (kind : Byte) (payload : List Byte)
  | incomplete
  | invalid
deriving DecidableEq, Repr

/-- `decode(w)`, its checks in the order of R102; the short windows are R103's. -/
def decodeFrame (c : Config) (w : List Byte) : DecodeResult :=
  if w.length = 0 then .incomplete
  else if w[0]? ≠ some c.sof then .invalid
  else match w[1]?, w[2]? with
    | some kind, some len =>
        if w.length < frameTotal len then .incomplete
        else if w[frameTotal len - 1]? ≠ some c.eof then .invalid
        else .frame kind ((w.take (frameTotal len - 1)).drop 3)
    | _, _ => .incomplete

end Sys2Proof.Machine
end

