-- ==== Sys2Proof/Syntax.lean ====
section
/-! DEFINITION. The instructions: one constructor per mnemonic of spec/opcode_table.json. The first
ten are the input events (30_encoding.md R85, R86), `reservedEv` stands for the twelve rows of
reserved event opcodes (R87), and the last six are the classes of a received frame (R71, R74). -/

namespace Sys2Proof

/-- An instruction of the link core (00_scope.md R2: its input events, and the frame kinds its
dispatcher decodes). Operands that the rules call u8 are kept as the byte received. -/
inductive Instr where
  /-- `CONNECT_REQ` (R160). -/
  | connectReq
  /-- `DISCONNECT_REQ` (R161). -/
  | disconnectReq
  /-- `TP_UP` (R162). -/
  | tpUp
  /-- `TP_DOWN` (R164). -/
  | tpDown
  /-- `TICK` (R169). -/
  | tick
  /-- `RX_CHUNK b0 … b(n-1)` (R120). -/
  | rxChunk (data : List Byte)
  /-- `TX_RAW kind, payload` (R107). -/
  | txRaw (kind : Byte) (payload : List Byte)
  /-- `TX_MOVE forward, lateral, rotation` (R108). -/
  | txMove (forward lateral rotation : I16)
  /-- `TX_CONTROL primary, secondary, mode` (R109); the flags are the operand bytes, ≠ 0 = true. -/
  | txControl (primary secondary mode : Byte)
  /-- `TX_TARGET x, y` (R110). -/
  | txTarget (x y : I16)
  /-- `RESERVED_EV`: an event word with a reserved opcode (R87). -/
  | reservedEv (op : Byte)
  /-- `HEARTBEAT`: a received Heartbeat frame (R142). -/
  | heartbeat
  /-- `MOVE`: a received Move frame (R143). -/
  | move (forward lateral rotation : I16)
  /-- `CONTROL`: a received Control frame (R144), its four payload bytes. -/
  | control (primary secondary mode reserved : Byte)
  /-- `TARGET`: a received Target frame (R145). -/
  | target (x y : I16)
  /-- `UNASSIGNED_KIND`: a received frame of kind `0x04`–`0xFF` (R81, R146). -/
  | unassignedKind (kind : Byte) (payload : List Byte)
  /-- `MALFORMED_KNOWN_KIND`: a known kind with the wrong payload length (R82, R141). -/
  | malformedKnownKind (kind : Byte) (payload : List Byte)
deriving DecidableEq, Repr

/-- The ten events of the event port (R86). -/
inductive EvOp where
  | connectReq
  | disconnectReq
  | tpUp
  | tpDown
  | tick
  | rxChunk
  | txRaw
  | txMove
  | txControl
  | txTarget
deriving DecidableEq, Repr

/-- Whether an instruction is taken at the event port (an `EV` row of the opcode table). -/
def Instr.isEvent : Instr → Bool
  | .connectReq | .disconnectReq | .tpUp | .tpDown | .tick | .rxChunk _ | .txRaw _ _
  | .txMove _ _ _ | .txControl _ _ _ | .txTarget _ _ | .reservedEv _ => true
  | .heartbeat | .move _ _ _ | .control _ _ _ _ | .target _ _ | .unassignedKind _ _
  | .malformedKnownKind _ _ => false

/-- Whether an instruction is a class of a received frame (a `FRAME` row of the opcode table). -/
def Instr.isFrame (i : Instr) : Bool := !i.isEvent

/-- The pseudo-events of R89. -/
inductive PseudoEvent where
  /-- `TICKS k`. -/
  | ticks (k : Nat)
  /-- `TX_HEARTBEAT`. -/
  | txHeartbeat
deriving DecidableEq, Repr

/-- The real events a pseudo-event stands for (R89). -/
def PseudoEvent.expand : PseudoEvent → List Instr
  | .ticks k => List.replicate k .tick
  | .txHeartbeat => [.txRaw 0x00 []]

end Sys2Proof
end

