-- ==== Sys2Proof/Machine/Operands.lean ====
section
/-! DEFINITION. Operand forms: little-endian 16-bit fields (30_encoding.md R79, 20_memory.md R53),
booleans (R80), the 16-bit length field of RX_CHUNK and the event opcodes (R86). -/

namespace Sys2Proof.Machine

/-- `p[o+1] : p[o]`: the low byte comes first in the stream (R53, R79). -/
def i16OfBytes (lo hi : Byte) : I16 := hi ++ lo

/-- `v[7:0]`. -/
def loByte (v : I16) : Byte := v.extractLsb' 0 8

/-- `v[15:8]`. -/
def hiByte (v : I16) : Byte := v.extractLsb' 8 8

/-- `wr_i16(v)` (R79). -/
def wrI16 (v : I16) : List Byte := [loByte v, hiByte v]

/-- `rd_i16(p, o)` (R79); `none` where the field does not lie inside `p`. -/
def rdI16 (p : List Byte) (o : Nat) : Option Int :=
  match p[o]?, p[o + 1]? with
  | some lo, some hi => some (i16OfBytes lo hi).toInt
  | _, _ => none

/-- A received flag byte: `0x00` is false, any other value true (R80). -/
def readFlag (b : Byte) : Bool := decide (b ≠ 0x00)

/-- A sent flag byte: true is `0x01`, false is `0x00` (R80). -/
def flagByte (f : Bool) : Byte := if f then 0x01 else 0x00

/-- The low byte of the 16-bit length field of RX_CHUNK (R86). -/
def lenLo (n : Nat) : Byte := loByte (BitVec.ofNat 16 n)

/-- The high byte of the 16-bit length field of RX_CHUNK (R86). -/
def lenHi (n : Nat) : Byte := hiByte (BitVec.ofNat 16 n)

/-- `zext_16(w[2] : w[1])` (R88). -/
def len16 (lo hi : Byte) : Nat := (i16OfBytes lo hi).toNat

end Sys2Proof.Machine

namespace Sys2Proof

/-- The opcode map of R86. -/
def EvOp.code : EvOp → Byte
  | .connectReq => 0x01
  | .disconnectReq => 0x02
  | .tpUp => 0x03
  | .tpDown => 0x04
  | .tick => 0x05
  | .rxChunk => 0x10
  | .txRaw => 0x20
  | .txMove => 0x21
  | .txControl => 0x22
  | .txTarget => 0x23

/-- The event an opcode byte names; `none` for the reserved opcodes of R87. -/
def EvOp.ofByte (op : Byte) : Option EvOp :=
  if op = 0x01 then some .connectReq
  else if op = 0x02 then some .disconnectReq
  else if op = 0x03 then some .tpUp
  else if op = 0x04 then some .tpDown
  else if op = 0x05 then some .tick
  else if op = 0x10 then some .rxChunk
  else if op = 0x20 then some .txRaw
  else if op = 0x21 then some .txMove
  else if op = 0x22 then some .txControl
  else if op = 0x23 then some .txTarget
  else none

end Sys2Proof
end

