-- ==== Sys2Proof/WellFormed.lean ====
section
/-! DEFINITION. Which configurations are in range (00_scope.md R7), and which instructions have an
encoding: the operand ranges of 30_encoding.md R86, R87, R81 and R82. -/

namespace Sys2Proof

/-- The ranges of R7. DEDUCED (log entry 4): `MAX_PAYLOAD` fits the length byte; `HDR_LEN` and `MIN_FRAME`
count the bytes that R6 says they count; the four kinds differ and their fields fit their payloads. -/
def Config.wf (c : Config) : Bool :=
  decide (1 ≤ c.hbPeriod) && decide (1 ≤ c.retryPeriod) && decide (1 ≤ c.rxCap) &&
  decide (c.chunkMax ≤ 65535) && decide (c.sof ≠ c.eof) && decide (c.maxPayload ≤ 255) &&
  decide (c.hdrLen = 3) && decide (c.minFrame = c.hdrLen + 1) &&
  c.hasKind .heartbeat && c.hasKind .move && c.hasKind .control && c.hasKind .target

/-- The operand ranges that the constructors' types do not already force:
`RX_CHUNK` has at most `CHUNK_MAX` bytes and a 16-bit length field (R86, R87); `TX_RAW` has at most 255
payload bytes (R88); a reserved event opcode is one that R86 does not assign; a frame's payload has at
most 255 bytes (R73); an unassigned kind is `0x04`–`0xFF` (R81); a malformed frame has a known kind and
not that kind's payload length (R82). -/
def Instr.wf (c : Config) : Instr → Bool
  | .connectReq | .disconnectReq | .tpUp | .tpDown | .tick => true
  | .rxChunk data => decide (data.length ≤ c.chunkMax) && decide (data.length ≤ 65535)
  | .txRaw _ payload => decide (payload.length ≤ 255)
  | .txMove _ _ _ | .txControl _ _ _ | .txTarget _ _ => true
  | .reservedEv op => decide (EvOp.ofByte op = none)
  | .heartbeat => c.hasKind .heartbeat
  | .move _ _ _ => c.hasKind .move
  | .control _ _ _ _ => c.hasKind .control
  | .target _ _ => c.hasKind .target
  | .unassignedKind kind payload =>
      decide (c.kindOf kind = none) && decide (payload.length ≤ 255)
  | .malformedKnownKind kind payload =>
      (match c.kindOf kind with
       | some k => decide (payload.length ≠ c.kindLen k)
       | none => false) && decide (payload.length ≤ 255)

end Sys2Proof
end

