-- ==== Sys2Proof/Decode.lean ====
section
/-! DEFINITION. The two encodings of 30_encoding.md: event words at the event port (R85–R88) and the
classification of received frames (R71, R74–R83); the opcode table's rows; the decoders, total on any
bytes; and the encoder. -/

namespace Sys2Proof

open Sys2Proof.Machine

/-! ## The opcode table's rows -/

/-- A row of spec/opcode_table.json of format `EV`, over the opcode byte (R86, R87). -/
structure EvRow where
  mnemonic : String
  pattern : Byte
  mask : Byte
deriving DecidableEq, Repr

/-- A row of format `FRAME`, over the header word `H` (R71). -/
structure FrameRow where
  mnemonic : String
  pattern : BitVec 24
  mask : BitVec 24
  priority : Nat
deriving DecidableEq, Repr

/-- The ten event opcodes (R86). -/
def eventRows : List EvRow :=
  [⟨"CONNECT_REQ", 0x01, 0xFF⟩, ⟨"DISCONNECT_REQ", 0x02, 0xFF⟩, ⟨"TP_UP", 0x03, 0xFF⟩,
   ⟨"TP_DOWN", 0x04, 0xFF⟩, ⟨"TICK", 0x05, 0xFF⟩, ⟨"RX_CHUNK", 0x10, 0xFF⟩,
   ⟨"TX_RAW", 0x20, 0xFF⟩, ⟨"TX_MOVE", 0x21, 0xFF⟩, ⟨"TX_CONTROL", 0x22, 0xFF⟩,
   ⟨"TX_TARGET", 0x23, 0xFF⟩]

/-- The twelve rows of reserved event opcodes (R87). -/
def reservedRows : List EvRow :=
  [⟨"RESERVED_EV", 0x00, 0xFF⟩, ⟨"RESERVED_EV", 0x06, 0xFE⟩, ⟨"RESERVED_EV", 0x08, 0xF8⟩,
   ⟨"RESERVED_EV", 0x11, 0xFF⟩, ⟨"RESERVED_EV", 0x12, 0xFE⟩, ⟨"RESERVED_EV", 0x14, 0xFC⟩,
   ⟨"RESERVED_EV", 0x18, 0xF8⟩, ⟨"RESERVED_EV", 0x24, 0xFC⟩, ⟨"RESERVED_EV", 0x28, 0xF8⟩,
   ⟨"RESERVED_EV", 0x30, 0xF0⟩, ⟨"RESERVED_EV", 0x40, 0xC0⟩, ⟨"RESERVED_EV", 0x80, 0x80⟩]

/-- The eleven frame-header rows (R71, R74, R81, R82). -/
def frameRows : List FrameRow :=
  [⟨"HEARTBEAT", 0xAA0000, 0xFFFFFF, 1⟩, ⟨"MOVE", 0xAA0106, 0xFFFFFF, 1⟩,
   ⟨"CONTROL", 0xAA0204, 0xFFFFFF, 1⟩, ⟨"TARGET", 0xAA0304, 0xFFFFFF, 1⟩,
   ⟨"UNASSIGNED_KIND", 0xAA0400, 0xFFFC00, 1⟩, ⟨"UNASSIGNED_KIND", 0xAA0800, 0xFFF800, 1⟩,
   ⟨"UNASSIGNED_KIND", 0xAA1000, 0xFFF000, 1⟩, ⟨"UNASSIGNED_KIND", 0xAA2000, 0xFFE000, 1⟩,
   ⟨"UNASSIGNED_KIND", 0xAA4000, 0xFFC000, 1⟩, ⟨"UNASSIGNED_KIND", 0xAA8000, 0xFF8000, 1⟩,
   ⟨"MALFORMED_KNOWN_KIND", 0xAA0000, 0xFFFC00, 2⟩]

/-- Whether an opcode byte matches a row. -/
def EvRow.fits (r : EvRow) (op : Byte) : Bool := (op &&& r.mask) == r.pattern

/-- Whether a header word matches a row. -/
def FrameRow.fits (r : FrameRow) (h : BitVec 24) : Bool := (h &&& r.mask) == r.pattern

/-- `H = b0 : b1 : b2` (R71). -/
def headerWord (b0 b1 b2 : Byte) : BitVec 24 := b0 ++ b1 ++ b2

/-- The row that decides an opcode byte (R71: every opcode byte matches exactly one `EV` row). -/
def evMnemonic (op : Byte) : Option String :=
  ((eventRows ++ reservedRows).find? (fun r => r.fits op)).map (fun r => r.mnemonic)

/-- The row that decides a header word: a matching priority-1 row if there is one, else a matching
priority-2 row (R71). -/
def frameMnemonic (h : BitVec 24) : Option String :=
  match frameRows.find? (fun r => r.priority == 1 && r.fits h) with
  | some r => some r.mnemonic
  | none => (frameRows.find? (fun r => r.priority == 2 && r.fits h)).map (fun r => r.mnemonic)

/-- An instruction's mnemonic, as spec/opcode_table.json spells it. -/
def Instr.mnemonic : Instr → String
  | .connectReq => "CONNECT_REQ"
  | .disconnectReq => "DISCONNECT_REQ"
  | .tpUp => "TP_UP"
  | .tpDown => "TP_DOWN"
  | .tick => "TICK"
  | .rxChunk _ => "RX_CHUNK"
  | .txRaw _ _ => "TX_RAW"
  | .txMove _ _ _ => "TX_MOVE"
  | .txControl _ _ _ => "TX_CONTROL"
  | .txTarget _ _ => "TX_TARGET"
  | .reservedEv _ => "RESERVED_EV"
  | .heartbeat => "HEARTBEAT"
  | .move _ _ _ => "MOVE"
  | .control _ _ _ _ => "CONTROL"
  | .target _ _ => "TARGET"
  | .unassignedKind _ _ => "UNASSIGNED_KIND"
  | .malformedKnownKind _ _ => "MALFORMED_KNOWN_KIND"

/-! ## The event port -/

/-- Why the bytes at the event port are not an event word. -/
inductive DecodeReject where
  /-- No byte waits at the port. -/
  | noEvent
  /-- An RX_CHUNK with `n > CHUNK_MAX` (R87). -/
  | chunkTooLong (n : Nat)
  /-- An event word cut short before its stated length (R87). -/
  | cutShort
deriving DecidableEq, Repr

/-- Reads one event word from the front of the port and answers it with the bytes behind it (R85, R86,
R88). An event word with a reserved opcode is its opcode byte (R87; log entry 7). -/
def decodeEvent (c : Config) : List Byte → Except DecodeReject (Instr × List Byte)
  | [] => .error .noEvent
  | op :: w =>
    match EvOp.ofByte op with
    | none => .ok (.reservedEv op, w)
    | some .connectReq => .ok (.connectReq, w)
    | some .disconnectReq => .ok (.disconnectReq, w)
    | some .tpUp => .ok (.tpUp, w)
    | some .tpDown => .ok (.tpDown, w)
    | some .tick => .ok (.tick, w)
    | some .rxChunk =>
      match w with
      | n0 :: n1 :: rest =>
        if c.chunkMax < len16 n0 n1 then .error (.chunkTooLong (len16 n0 n1))
        else if rest.length < len16 n0 n1 then .error .cutShort
        else .ok (.rxChunk (rest.take (len16 n0 n1)), rest.drop (len16 n0 n1))
      | _ => .error .cutShort
    | some .txRaw =>
      match w with
      | kind :: len :: rest =>
        if rest.length < len.toNat then .error .cutShort
        else .ok (.txRaw kind (rest.take len.toNat), rest.drop len.toNat)
      | _ => .error .cutShort
    | some .txMove =>
      match w with
      | f0 :: f1 :: l0 :: l1 :: r0 :: r1 :: rest =>
        .ok (.txMove (i16OfBytes f0 f1) (i16OfBytes l0 l1) (i16OfBytes r0 r1), rest)
      | _ => .error .cutShort
    | some .txControl =>
      match w with
      | p :: s :: mode :: rest => .ok (.txControl p s mode, rest)
      | _ => .error .cutShort
    | some .txTarget =>
      match w with
      | x0 :: x1 :: y0 :: y1 :: rest =>
        .ok (.txTarget (i16OfBytes x0 x1) (i16OfBytes y0 y1), rest)
      | _ => .error .cutShort

/-- The length of the event word at the front of the port, from its opcode and its length field (R88);
`none` while those bytes are missing. A reserved opcode is one byte (log entry 7). -/
def eventLength (w : List Byte) : Option Nat :=
  match w[0]? with
  | none => none
  | some op =>
    match EvOp.ofByte op with
    | none => some 1
    | some .connectReq | some .disconnectReq | some .tpUp | some .tpDown | some .tick => some 1
    | some .txMove => some 7
    | some .txControl => some 4
    | some .txTarget => some 5
    | some .rxChunk =>
      match w[1]?, w[2]? with
      | some n0, some n1 => some (3 + len16 n0 n1)
      | _, _ => none
    | some .txRaw =>
      match w[2]? with
      | some len => some (3 + len.toNat)
      | none => none

/-! ## Received frames -/

/-- The class of a yielded frame, with its operands (R71, R74–R82). A payload of its kind's length that is
too short for the kind's fields needs a configuration out of range (log entries 4 and 19). -/
def classifyFrame (c : Config) (kind : Byte) (payload : List Byte) : Instr :=
  match c.kindOf kind with
  | none => .unassignedKind kind payload
  | some k =>
    if payload.length ≠ c.kindLen k then .malformedKnownKind kind payload
    else match k, payload with
      | .heartbeat, _ => .heartbeat
      | .move, f0 :: f1 :: l0 :: l1 :: r0 :: r1 :: _ =>
        .move (i16OfBytes f0 f1) (i16OfBytes l0 l1) (i16OfBytes r0 r1)
      | .control, p :: s :: mode :: reserved :: _ => .control p s mode reserved
      | .target, x0 :: x1 :: y0 :: y1 :: _ => .target (i16OfBytes x0 x1) (i16OfBytes y0 y1)
      | .move, _ | .control, _ | .target, _ => .malformedKnownKind kind payload

/-- The class of the frame at the front of a byte window, if `decode` finds one there (R102). -/
def decodeFrameInstr (c : Config) (w : List Byte) : Option Instr :=
  match decodeFrame c w with
  | .frame kind payload => some (classifyFrame c kind payload)
  | .incomplete | .invalid => none

/-! ## The encoder -/

/-- The event word of an event (R86); an event word of a frame class does not exist. -/
def encodeEvent : Instr → List Byte
  | .connectReq => [EvOp.connectReq.code]
  | .disconnectReq => [EvOp.disconnectReq.code]
  | .tpUp => [EvOp.tpUp.code]
  | .tpDown => [EvOp.tpDown.code]
  | .tick => [EvOp.tick.code]
  | .rxChunk data => EvOp.rxChunk.code :: lenLo data.length :: lenHi data.length :: data
  | .txRaw kind payload =>
      EvOp.txRaw.code :: kind :: BitVec.ofNat 8 payload.length :: payload
  | .txMove f l r => EvOp.txMove.code :: (wrI16 f ++ wrI16 l ++ wrI16 r)
  | .txControl p s mode => [EvOp.txControl.code, p, s, mode]
  | .txTarget x y => EvOp.txTarget.code :: (wrI16 x ++ wrI16 y)
  | .reservedEv op => [op]
  | .heartbeat | .move _ _ _ | .control _ _ _ _ | .target _ _ | .unassignedKind _ _
  | .malformedKnownKind _ _ => []

/-- A payload of kind `k` with the given field bytes, filled with zeros to the kind's length where that is
longer than its fields (R76–R78; log entry 3). -/
def kindPayload (c : Config) (k : FrameKind) (fields : List Byte) : List Byte :=
  fields ++ List.replicate (c.kindLen k - k.fieldBytes) 0

/-- The kind and payload of a frame class (R75–R78, R81, R82); `none` for an event. -/
def framePart (c : Config) : Instr → Option (Byte × List Byte)
  | .heartbeat => some (c.kindHeartbeat, kindPayload c .heartbeat [])
  | .move f l r => some (c.kindMove, kindPayload c .move (wrI16 f ++ wrI16 l ++ wrI16 r))
  | .control p s mode reserved =>
      some (c.kindControl, kindPayload c .control [p, s, mode, reserved])
  | .target x y => some (c.kindTarget, kindPayload c .target (wrI16 x ++ wrI16 y))
  | .unassignedKind kind payload => some (kind, payload)
  | .malformedKnownKind kind payload => some (kind, payload)
  | .connectReq | .disconnectReq | .tpUp | .tpDown | .tick | .rxChunk _ | .txRaw _ _
  | .txMove _ _ _ | .txControl _ _ _ | .txTarget _ _ | .reservedEv _ => none

/-- The bytes of an instruction: an event's event word, a frame class's whole wire frame. -/
def encode (c : Config) (i : Instr) : List Byte :=
  match framePart c i with
  | some (kind, payload) => frameBytes c kind payload
  | none => encodeEvent i

/-! ## The opcode table's words, for the host -/

/-- The `n` low bytes of `w`, least significant first. -/
def bytesLE (w : Nat) : Nat → List Byte
  | 0 => []
  | n + 1 => BitVec.ofNat 8 w :: bytesLE (w / 256) n

/-- The event word that the table's bits `w` begin, its further operand bytes zero and cut to its
length (R88). -/
def eventImage (nbits w : Nat) : List Byte :=
  let head := bytesLE w (nbits / 8)
  let n := (eventLength (head ++ List.replicate 7 0)).getD 1
  (head ++ List.replicate n 0).take n

/-- The frame whose header word is `w` = `H` (R71), its payload bytes zero, closed by its end sentinel
(log entry 10). -/
def frameImage (c : Config) (w : Nat) : List Byte :=
  let b0 : Byte := BitVec.ofNat 8 (w / 65536)
  let kind : Byte := BitVec.ofNat 8 (w / 256)
  let len : Byte := BitVec.ofNat 8 w
  [b0, kind, len] ++ List.replicate len.toNat 0 ++ [c.eof]

/-- The instruction the decoder reads from a row's bits: 24 bits are a header word `H` of a `FRAME`
row, any other count the first bytes of an event word (log entry 10). -/
def decodeTableWord (nbits w : Nat) : Option Instr :=
  if nbits = 24 then decodeFrameInstr Config.chosen (frameImage Config.chosen w)
  else match decodeEvent Config.chosen (eventImage nbits w) with
    | .ok (i, _) => some i
    | .error _ => none

end Sys2Proof
end

