-- ==== Sys2Proof/Machine/State.lean ====
section
/-! DEFINITION. The machine's state: the six fields of 10_state.md R20, the output trace OUT
(00_scope.md R11), the parameters of R6 and the event words waiting at the event port; what an output
item is; the reasons a step can stop; and the state after reset (R37, R230). -/

namespace Sys2Proof.Machine

/-- The four link states (R22). -/
inductive LinkState where
  | disconnected
  | connecting
  | connected
  | reconnecting
deriving DecidableEq, Repr

/-- The 2-bit encoding of R22. -/
def LinkState.code : LinkState → Nat
  | .disconnected => 0
  | .connecting => 1
  | .connected => 2
  | .reconnecting => 3

/-- The commands to the transport (R11). -/
inductive TpCommand where
  | connect
  | disconnect
  | abort
deriving DecidableEq, Repr

/-- The reason codes of a status event (R176); code 7 is reserved and has no constructor (U16). -/
inductive Reason where
  | connectRequested
  | connected
  | userDisconnect
  | transportLost
  | connectFailed
  | heartbeatTimeout
  | retry
deriving DecidableEq, Repr

/-- The 3-bit code of R176. -/
def Reason.code : Reason → Nat
  | .connectRequested => 0
  | .connected => 1
  | .userDisconnect => 2
  | .transportLost => 3
  | .connectFailed => 4
  | .heartbeatTimeout => 5
  | .retry => 6

/-- A typed command for the application (R143–R145, R148). -/
inductive Command where
  | move (forward lateral rotation : Int)
  | control (primary secondary : Bool) (mode reserved : Byte)
  | target (x y : Int)
deriving DecidableEq, Repr

/-- The programming-error reports (R202). -/
inductive ErrCode where
  | payloadTooLarge
deriving DecidableEq, Repr

/-- `PAYLOAD_TOO_LARGE` = 0x01 (R202). -/
def ErrCode.code : ErrCode → Nat
  | .payloadTooLarge => 0x01

/-- An item of the output trace OUT (R11). -/
inductive OutItem where
  /-- Bytes for the transport's `write`: one whole frame (R63). -/
  | tx (bytes : List Byte)
  /-- A command to the transport. -/
  | tpc (c : TpCommand)
  /-- A status event (R176). -/
  | status (connected : Bool) (state : LinkState) (reason : Reason)
  /-- The observation tap of the reassembler's frame sequence. -/
  | frame (kind : Byte) (payload : List Byte)
  /-- A decoded command for the application. -/
  | cmd (c : Command)
  /-- A programming-error report. -/
  | err (e : ErrCode)
deriving DecidableEq, Repr

/-- The one memory, the reassembly buffer: a byte sequence addressed by offset from its front
(R26, R50; log entry 12). -/
abbrev Memory := List Byte

/-- The state. The first six fields are R20's; `out` is R11's trace; `cfg` holds R6's parameters, which
no event writes (log entry 1); `port` holds the bytes of the event words that the environment has
queued and the block has not taken (R85, R208; log entry 5). -/
structure State where
  linkState : LinkState
  missCnt : Nat
  hbDiv : Nat
  rtDiv : Nat
  rxbuf : Memory
  faultPtl : Bool
  out : List OutItem
  port : List Byte
  cfg : Config
deriving DecidableEq, Repr

/-- The one way the machine stops with a fault. -/
inductive Fault where
  /-- A read of `rxbuf` outside its bytes (R50: "if one is ever reached, it must fault, not return a
  value"). Raised by `State.memRead` and `State.readByte`; safe, and with `MIN_FRAME` at least 3 no step
  reaches it (log entry 19). -/
  | bufferReadOutOfRange (offset count : Nat)
deriving DecidableEq, Repr

/-- The ways the machine refuses. Every refusal is safe: the run ends there and no state changes. -/
inductive Refusal where
  /-- No meaning yet. Raised by no instruction of this model. -/
  | notModelled (mnemonic : String)
  /-- An event word with a reserved opcode (R87, D25). Raised by RESERVED_EV. -/
  | reservedOpcode (op : Byte)
  /-- An RX_CHUNK with `n > CHUNK_MAX` (R87, D35). Raised by the fetch of an event word. -/
  | chunkTooLong (n : Nat)
  /-- An event word cut short before its stated length (R87). Raised by the fetch of an event word. -/
  | eventWordCutShort
  /-- A move of the environment model that would break duty E`n` of R243 (U20). Raised by
  Machine/Environment.lean only, never by `step`. -/
  | environmentDuty (n : Nat)
deriving DecidableEq, Repr

/-- The state after reset, for a given configuration (R37, R230). -/
def State.resetWith (c : Config) : State where
  linkState := .disconnected
  missCnt := 0
  hbDiv := 0
  rtDiv := 0
  rxbuf := []
  faultPtl := false
  out := []
  port := []
  cfg := c

/-- The machine right after reset (R37). Its OPEN parameters are log entry 2. -/
def State.reset : State := State.resetWith Config.chosen

end Sys2Proof.Machine
end

