-- ==== Sys2Proof/Machine/Flags.lean ====
section
/-! DEFINITION. What is derived from the state and not stored: `connected` (10_state.md R29), the timer
enables (R28), and the read-only status word LSTAT (R31). -/

namespace Sys2Proof.Machine

/-- `connected = (link_state = CONNECTED)` (R29). -/
def LinkState.isConnected (l : LinkState) : Bool := decide (l = .connected)

/-- The one boolean observers see (R29). -/
def State.connected (s : State) : Bool := s.linkState.isConnected

/-- The heartbeat emission timer runs exactly in CONNECTED (R28). -/
def State.heartbeatTimerRuns (s : State) : Bool := decide (s.linkState = .connected)

/-- The reconnect retry timer runs exactly in RECONNECTING (R28). -/
def State.retryTimerRuns (s : State) : Bool := decide (s.linkState = .reconnecting)

/-- The STATUS item of an entry into a link state: it carries `connected` of that state (R29, R176). -/
def statusItem (l : LinkState) (r : Reason) : OutItem := .status l.isConnected l r

/-- The number of bits of a natural number, at least 1. -/
def bitWidth (n : Nat) : Nat := Nat.log2 n + 1

/-- The width of LSTAT's `miss_cnt` field: 4, or as many as `HB_MISS_LIMIT + 1` needs (R31, U18). -/
def missWidth (c : Config) : Nat := max 4 (bitWidth (c.hbMissLimit + 1))

/-- The lowest bit of LSTAT's `rxbuf_len` field: 16, or above a wider `miss_cnt` (log entry 13). -/
def rxLenLow (c : Config) : Nat := max 16 (4 + missWidth c)

/-- The status word LSTAT (R31) read as a number: `link_state` from bit 0, `connected` at bit 2,
`fault_ptl` at bit 3, `miss_cnt` from bit 4, `rxbuf_len` from bit 16. It is a `Nat` because R31 lets a
model widen `miss_cnt` and `rxbuf_len` (log entry 13). -/
def State.lstat (s : State) : Nat :=
  s.linkState.code + 4 * s.connected.toNat + 8 * s.faultPtl.toNat + 16 * s.missCnt +
    2 ^ rxLenLow s.cfg * s.rxbuf.length

/-- A write to LSTAT: it has no effect (R31). -/
def State.writeLstat (s : State) (_value : Nat) : State := s

end Sys2Proof.Machine
end

