-- ==== Sys2Proof/Machine/Ops.lean ====
section
/-! DEFINITION. The shared operations: output (00_scope.md R11), the reassembly buffer (R10,
20_memory.md R50), raising PayloadTooLarge (60_exceptions.md R202), sending a frame (40_codec.md R111),
the entry procedures of the link states (43_supervisor.md R163–R166), reset, and fetching an event word
(30_encoding.md R85–R88). -/

namespace Sys2Proof.Machine

/-! ## Output -/

/-- Appends one item to OUT (R11). -/
def State.emit (s : State) (o : OutItem) : State := { s with out := s.out ++ [o] }

/-! ## The reassembly buffer -/

/-- `BufAppend(d)` (R10). -/
def State.bufAppend (s : State) (d : List Byte) : State := { s with rxbuf := s.rxbuf ++ d }

/-- `BufDrop(n)` (R10). -/
def State.bufDrop (s : State) (n : Nat) : State := { s with rxbuf := s.rxbuf.drop n }

/-- `BufClear()` (R10). -/
def State.bufClear (s : State) : State := { s with rxbuf := [] }

/-- `MemRead(i, n)` = `rxbuf[i..i+n)`; a read outside the buffer faults (R10, R50). -/
def State.memRead (s : State) (i n : Nat) : Except Fault (List Byte) :=
  if i + n ≤ s.rxbuf.length then .ok ((s.rxbuf.drop i).take n)
  else .error (.bufferReadOutOfRange i n)

/-- `rxbuf[i]`; a read outside the buffer faults (R50). -/
def State.readByte (s : State) (i : Nat) : Except Fault Byte :=
  match s.rxbuf[i]? with
  | some b => .ok b
  | none => .error (.bufferReadOutOfRange i 1)

/-- The buffer fits its capacity (R26, R36 I1). A byte sequence is its own canonical form (log
entry 12). -/
def Memory.wf (c : Config) (m : Memory) : Bool := decide (m.length ≤ c.rxCap)

/-- The buffer as address and byte pairs, addresses from 0 (R50). -/
def Memory.cells (m : Memory) : List Host.Cell := m.zipIdx.map (fun x => (x.2, x.1))

/-! ## The one reported fault -/

/-- `raise PayloadTooLarge`: the sticky bit and the ERR item; nothing else changes (R101, R202). -/
def State.raisePayloadTooLarge (s : State) : State :=
  { s with faultPtl := true }.emit (.err .payloadTooLarge)

/-! ## Sending -/

/-- `emit TX(encode(kind, payload))`; where `encode` raises, its fault is raised (R100, R101). -/
def State.emitFrame (s : State) (kind : Byte) (payload : List Byte) : State :=
  match encodeFrame s.cfg kind payload with
  | .ok bytes => s.emit (.tx bytes)
  | .error _ => s.raisePayloadTooLarge

/-- A Heartbeat frame to the transport: the echo of R142 and the probe of R171. -/
def State.emitHeartbeat (s : State) : State := s.emitFrame s.cfg.kindHeartbeat []

/-- `TxSend(kind, payload)`: the size check, then the link-state check (R111). -/
def txSend (kind : Byte) (payload : List Byte) (s : State) : State :=
  if s.cfg.maxPayload < payload.length then s.raisePayloadTooLarge
  else if s.linkState ≠ .connected then s
  else s.emitFrame kind payload

/-! ## Entry procedures of the link states -/

/-- `EnterConnecting(reason)` (R166). -/
def enterConnecting (r : Reason) (s : State) : State :=
  { s.emit (.tpc .connect) with linkState := .connecting }.emit (statusItem .connecting r)

/-- `EnterConnected()` (R163). -/
def enterConnected (s : State) : State :=
  { s.bufClear with missCnt := 0, hbDiv := 0, linkState := .connected }.emit
    (statusItem .connected .connected)

/-- `EnterReconnecting(reason)` (R165). -/
def enterReconnecting (r : Reason) (s : State) : State :=
  { s with rtDiv := 0, linkState := .reconnecting }.emit (statusItem .reconnecting r)

/-- `EnterDisconnected(close)` (R166). -/
def enterDisconnected (close : Bool) (s : State) : State :=
  let s1 := if close then s.emit (.tpc .disconnect) else s
  { s1 with linkState := .disconnected }.emit (statusItem .disconnected .userDisconnect)

/-! ## Reset -/

/-- Reset applied in any state (R230): every field at its reset value, OUT and the waiting events
discarded; the parameters stay (log entry 15). -/
def State.applyReset (s : State) : State := State.resetWith s.cfg

/-! ## Fetching an event word -/

/-- What the event port holds. -/
inductive Fetched where
  /-- No event waits: the block is idle (R216; log entry 6). -/
  | idle
  /-- The bytes are not an event word (R87). -/
  | malformed (r : Refusal)
  /-- An event, and the bytes behind it. -/
  | event (i : Instr) (rest : List Byte)
deriving DecidableEq, Repr

/-- Reads the next event word at the port (R85–R88). -/
def fetch (s : State) : Fetched :=
  match decodeEvent s.cfg s.port with
  | .ok (i, rest) => .event i rest
  | .error .noEvent => .idle
  | .error (.chunkTooLong n) => .malformed (.chunkTooLong n)
  | .error .cutShort => .malformed .eventWordCutShort

/-- `s` with the bits of an opcode-table row as its next input: an event word in front of the port; or,
for a header word of 24 bits, a connected link with an empty buffer and the whole frame as one RX_CHUNK
in front of the port, since a frame is run only by the reassembler (R125; log entries 9 and 10). -/
def State.withInput (s : State) (nbits w : Nat) : State :=
  if nbits = 24 then
    { s with
      linkState := .connected
      rxbuf := []
      port := encodeEvent (.rxChunk (frameImage s.cfg w)) ++ s.port }
  else { s with port := eventImage nbits w ++ s.port }

end Sys2Proof.Machine
end

