-- ==== Sys2Proof/Machine/CommandModel.lean ====
section
/-! DEFINITION. The Command Model: what each class of received frame does (42_dispatch.md R141–R146)
and the dispatch that selects it (R140). The meanings do not test the link state: dispatch is called
only in CONNECTED (log entry 11). -/

namespace Sys2Proof.Machine

/-- `DispHeartbeat()` (R142): liveness evidence, then the echo. -/
def dispHeartbeat (s : State) : State := { s with missCnt := 0 }.emitHeartbeat

/-- `DispMove` (R143). -/
def dispMove (f l r : I16) (s : State) : State := s.emit (.cmd (.move f.toInt l.toInt r.toInt))

/-- `DispControl` (R144): the reserved byte is passed on unchanged. -/
def dispControl (p q mode reserved : Byte) (s : State) : State :=
  s.emit (.cmd (.control (readFlag p) (readFlag q) mode reserved))

/-- `DispTarget` (R145). -/
def dispTarget (x y : I16) (s : State) : State := s.emit (.cmd (.target x.toInt y.toInt))

/-- `Discard()` (R141): no CMD, no echo, no TX, no state change. -/
def discard (s : State) : State := s

/-- `Ignore()` (R146): no CMD, no echo, no state change. -/
def ignore (s : State) : State := s

/-- `Dispatch(kind, payload)` (R140): by kind, then by exact payload size; the fields are read at their
offsets. A payload too short for them needs a configuration out of range (log entries 4 and 19). -/
def dispatch (kind : Byte) (payload : List Byte) (s : State) : State :=
  match s.cfg.kindOf kind with
  | none => ignore s
  | some k =>
    if payload.length ≠ s.cfg.kindLen k then discard s
    else match k, payload with
      | .heartbeat, _ => dispHeartbeat s
      | .move, f0 :: f1 :: l0 :: l1 :: r0 :: r1 :: _ =>
        dispMove (i16OfBytes f0 f1) (i16OfBytes l0 l1) (i16OfBytes r0 r1) s
      | .control, p :: q :: mode :: reserved :: _ => dispControl p q mode reserved s
      | .target, x0 :: x1 :: y0 :: y1 :: _ => dispTarget (i16OfBytes x0 x1) (i16OfBytes y0 y1) s
      | .move, _ | .control, _ | .target, _ => discard s

/-- `HEARTBEAT` (R142). -/
def execHeartbeat (s : State) : Host.Outcome State Fault Refusal := .next (dispHeartbeat s)

/-- `MOVE` (R143). -/
def execMove (f l r : I16) (s : State) : Host.Outcome State Fault Refusal := .next (dispMove f l r s)

/-- `CONTROL` (R144). -/
def execControl (p q mode reserved : Byte) (s : State) : Host.Outcome State Fault Refusal :=
  .next (dispControl p q mode reserved s)

/-- `TARGET` (R145). -/
def execTarget (x y : I16) (s : State) : Host.Outcome State Fault Refusal := .next (dispTarget x y s)

/-- `UNASSIGNED_KIND` (R146). -/
def execUnassignedKind (_kind : Byte) (_payload : List Byte) (s : State) :
    Host.Outcome State Fault Refusal := .next (ignore s)

/-- `MALFORMED_KNOWN_KIND` (R141). -/
def execMalformedKnownKind (_kind : Byte) (_payload : List Byte) (s : State) :
    Host.Outcome State Fault Refusal := .next (discard s)

end Sys2Proof.Machine
end

