-- ==== Sys2Proof/Machine/Reassembler.lean ====
section
/-! DEFINITION. The Stream Reassembler and its event RX_CHUNK (41_reassembler.md R120–R126). -/

namespace Sys2Proof.Machine

/-- What one pass of the loop of R122 does. -/
inductive Pass where
  /-- The loop is over: fewer than `MIN_FRAME` bytes (R122) or an incomplete frame (R124). -/
  | stop
  /-- One byte leaves the front: step a (R123) or step d (R126). -/
  | drop
  /-- A whole frame of `total` bytes: step c (R125). -/
  | yield (kind : Byte) (payload : List Byte) (total : Nat)
deriving DecidableEq, Repr

/-- The checks of one pass in the order of R122; every read is a checked read of `rxbuf` (R50). -/
def nextPass (s : State) : Except Fault Pass :=
  if s.rxbuf.length < s.cfg.minFrame then .ok .stop
  else match s.readByte 0, s.readByte 2 with
    | .error f, _ => .error f
    | _, .error f => .error f
    | .ok b0, .ok len =>
      if b0 ≠ s.cfg.sof then .ok .drop
      else if s.rxbuf.length < frameTotal len then .ok .stop
      else match s.readByte (frameTotal len - 1) with
        | .error f => .error f
        | .ok e =>
          if e ≠ s.cfg.eof then .ok .drop
          else match s.readByte 1, s.memRead 3 (frameTotal len - 4) with
            | .error f, _ => .error f
            | _, .error f => .error f
            | .ok kind, .ok payload => .ok (.yield kind payload (frameTotal len))

/-- A yielded frame leaves the buffer, is shown on the FRAME tap and is dispatched at once (R125). -/
def yieldFrame (kind : Byte) (payload : List Byte) (total : Nat) (s : State) : State :=
  dispatch kind payload ((s.bufDrop total).emit (.frame kind payload))

/-- `Reassemble()` (R122), at most `n` passes. -/
def reassembleFor : Nat → State → Except Fault State
  | 0, s => .ok s
  | n + 1, s =>
    match nextPass s with
    | .error f => .error f
    | .ok .stop => .ok s
    | .ok .drop => reassembleFor n (s.bufDrop 1)
    | .ok (.yield kind payload total) => reassembleFor n (yieldFrame kind payload total s)

/-- `Reassemble()` (R122). As many passes as the buffer has bytes are enough, since each pass removes
at least one byte or ends the loop (R127). -/
def reassemble (s : State) : Except Fault State := reassembleFor s.rxbuf.length s

/-- The append and its overflow check (R121): the check follows the whole append and is strict. -/
def receive (d : List Byte) (s : State) : State :=
  let s1 := s.bufAppend d
  if s1.cfg.rxCap < s1.rxbuf.length then s1.bufClear else s1

/-- `RX_CHUNK` (R120). -/
def execRxChunk (d : List Byte) (s : State) : Host.Outcome State Fault Refusal :=
  if s.linkState ≠ .connected then .next s
  else match reassemble (receive d s) with
    | .ok t => .next t
    | .error f => .fault f

end Sys2Proof.Machine
end

