-- ==== Sys2Proof/Machine/Supervisor.lean ====
section
/-! DEFINITION. The Link Supervisor's events (43_supervisor.md R160–R172). -/

namespace Sys2Proof.Machine

/-- `CONNECT_REQ` (R160). -/
def execConnectReq (s : State) : Host.Outcome State Fault Refusal :=
  match s.linkState with
  | .disconnected => .next (enterConnecting .connectRequested s)
  | .connecting | .connected | .reconnecting => .next s

/-- `DISCONNECT_REQ` (R161). -/
def execDisconnectReq (s : State) : Host.Outcome State Fault Refusal :=
  match s.linkState with
  | .connected | .connecting => .next (enterDisconnected true s)
  | .reconnecting => .next (enterDisconnected false s)
  | .disconnected => .next s

/-- `TP_UP` (R162). -/
def execTpUp (s : State) : Host.Outcome State Fault Refusal :=
  match s.linkState with
  | .connecting => .next (enterConnected s)
  | .disconnected | .connected | .reconnecting => .next s

/-- `TP_DOWN` (R164). -/
def execTpDown (s : State) : Host.Outcome State Fault Refusal :=
  match s.linkState with
  | .connected => .next (enterReconnecting .transportLost s)
  | .connecting => .next (enterReconnecting .connectFailed s)
  | .disconnected | .reconnecting => .next s

/-- `HeartbeatTick()` (R171): the miss is counted first, then compared. -/
def heartbeatTick (s : State) : State :=
  let s1 := { s with missCnt := s.missCnt + 1 }
  if s1.cfg.hbMissLimit < s1.missCnt then
    enterReconnecting .heartbeatTimeout (s1.emit (.tpc .abort))
  else s1.emitHeartbeat

/-- `TICK` in CONNECTED (R169, R170). -/
def connectedTick (s : State) : State :=
  let s1 := { s with hbDiv := s.hbDiv + 1 }
  if s1.hbDiv = s1.cfg.hbPeriod then heartbeatTick { s1 with hbDiv := 0 } else s1

/-- `TICK` in RECONNECTING (R169, R172). -/
def reconnectingTick (s : State) : State :=
  let s1 := { s with rtDiv := s.rtDiv + 1 }
  if s1.rtDiv = s1.cfg.retryPeriod then enterConnecting .retry { s1 with rtDiv := 0 } else s1

/-- `TICK` (R169). -/
def execTick (s : State) : Host.Outcome State Fault Refusal :=
  match s.linkState with
  | .connected => .next (connectedTick s)
  | .reconnecting => .next (reconnectingTick s)
  | .disconnected | .connecting => .next s

end Sys2Proof.Machine
end

