-- ==== Sys2Proof/Machine/TxEvents.lean ====
section
/-! DEFINITION. The four TX events (40_codec.md R107–R110) over the shared `txSend` (R111), and the
refusal of a reserved event opcode (30_encoding.md R87). -/

namespace Sys2Proof.Machine

/-- `TX_RAW kind, payload` (R107). -/
def execTxRaw (kind : Byte) (payload : List Byte) (s : State) : Host.Outcome State Fault Refusal :=
  .next (txSend kind payload s)

/-- `TX_MOVE forward, lateral, rotation` (R108). -/
def execTxMove (f l r : I16) (s : State) : Host.Outcome State Fault Refusal :=
  .next (txSend s.cfg.kindMove (wrI16 f ++ wrI16 l ++ wrI16 r) s)

/-- `TX_CONTROL primary, secondary, mode` (R109): flags normalised to `01`/`00`, reserved byte `00`. -/
def execTxControl (p q mode : Byte) (s : State) : Host.Outcome State Fault Refusal :=
  .next (txSend s.cfg.kindControl [flagByte (readFlag p), flagByte (readFlag q), mode, 0x00] s)

/-- `TX_TARGET x, y` (R110). -/
def execTxTarget (x y : I16) (s : State) : Host.Outcome State Fault Refusal :=
  .next (txSend s.cfg.kindTarget (wrI16 x ++ wrI16 y) s)

/-- `RESERVED_EV` (R87): "A model refuses it, as a refusal and not a state change." -/
def execReservedEv (op : Byte) (_s : State) : Host.Outcome State Fault Refusal :=
  .refused (.reservedOpcode op)

end Sys2Proof.Machine
end

