-- ==== Sys2Proof/Machine/Dispatch.lean ====
section
/-! DEFINITION. The meaning of every instruction, one arm per constructor. -/

namespace Sys2Proof.Machine

def exec (i : Instr) (s : State) : Host.Outcome State Fault Refusal :=
  match i with
  | .connectReq => Sys2Proof.Machine.execConnectReq s
  | .disconnectReq => Sys2Proof.Machine.execDisconnectReq s
  | .tpUp => Sys2Proof.Machine.execTpUp s
  | .tpDown => Sys2Proof.Machine.execTpDown s
  | .tick => Sys2Proof.Machine.execTick s
  | .rxChunk data => Sys2Proof.Machine.execRxChunk data s
  | .txRaw kind payload => Sys2Proof.Machine.execTxRaw kind payload s
  | .txMove f l r => Sys2Proof.Machine.execTxMove f l r s
  | .txControl p q mode => Sys2Proof.Machine.execTxControl p q mode s
  | .txTarget x y => Sys2Proof.Machine.execTxTarget x y s
  | .reservedEv op => Sys2Proof.Machine.execReservedEv op s
  | .heartbeat => Sys2Proof.Machine.execHeartbeat s
  | .move f l r => Sys2Proof.Machine.execMove f l r s
  | .control p q mode reserved => Sys2Proof.Machine.execControl p q mode reserved s
  | .target x y => Sys2Proof.Machine.execTarget x y s
  | .unassignedKind kind payload => Sys2Proof.Machine.execUnassignedKind kind payload s
  | .malformedKnownKind kind payload => Sys2Proof.Machine.execMalformedKnownKind kind payload s

end Sys2Proof.Machine
end

