-- ==== Sys2Proof/Machine/Step.lean ====
section
/-! DEFINITION. One step: the block takes the next input event and runs it to completion (00_scope.md
R12, R208), and how the host places an instruction as the next input. -/

namespace Sys2Proof.Machine

/-- One step (R12): an idle block holds its state (R216), bytes that are no event word are refused
without a state change (R87), and an event leaves the port and runs to completion. -/
def step (s : State) : Host.Outcome State Fault Refusal :=
  match fetch s with
  | .idle => .next s
  | .malformed r => .refused r
  | .event i rest => exec i { s with port := rest }

/-- `s` with the bits of an opcode-table row placed where `step` takes its next input (log entry 9). -/
def State.withFetchWord (s : State) (nbits w : Nat) : State := s.withInput nbits w

end Sys2Proof.Machine
end

