-- ==== Sys2Proof/Machine/Environment.lean ====
section
/-! DEFINITION. The block's environment (70_reset_and_hazards.md R243, 10_state.md R34): the transport,
the asynchronous ingress (20_memory.md R59) and the application, as moves on an endpoint. A move that
would break a duty is refused by the duty's number (U20; log entry 16). And two endpoints and the
two streams between them (R64, 60_exceptions.md R214; log entry 21). -/

namespace Sys2Proof.Machine

/-- What the transport of one endpoint holds. -/
structure Transport where
  /-- A `TPC(CONNECT)` that has not been answered (E1). -/
  attempt : Bool
  /-- A session is current (E2, E3). -/
  session : Bool
  /-- A session or attempt was closed by the block; its one `TP_DOWN` may still come (E2). -/
  closing : Bool
  /-- The ingress FIFO: bytes of the current session not yet delivered (R59). -/
  ingress : List Byte
deriving DecidableEq, Repr

/-- An endpoint: a block and its transport (R214). -/
structure Endpoint where
  core : State
  transport : Transport
deriving DecidableEq, Repr

/-- A transport with nothing open. -/
def Transport.idle : Transport :=
  { attempt := false, session := false, closing := false, ingress := [] }

/-- An endpoint right after reset. -/
def Endpoint.reset (c : Config) : Endpoint :=
  { core := State.resetWith c, transport := Transport.idle }

/-- What the transport does with an output item of the block: a CONNECT starts an attempt, a DISCONNECT
or ABORT closes what is open, and its undelivered bytes with it (R33, E1, E2). -/
def Transport.react (t : Transport) : OutItem → Transport
  | .tpc .connect => { attempt := true, session := false, closing := false, ingress := [] }
  | .tpc .disconnect => { attempt := false, session := false, closing := true, ingress := [] }
  | .tpc .abort => { attempt := false, session := false, closing := true, ingress := [] }
  | .tx _ => t
  | .status _ _ _ => t
  | .frame _ _ => t
  | .cmd _ => t
  | .err _ => t

/-- The items an event appended to OUT. -/
def newItems (before after : State) : List OutItem := after.out.drop before.out.length

/-- The block takes one event and the transport takes the outputs, in order (E4). -/
def Endpoint.take (i : Instr) (e : Endpoint) : Host.Outcome Endpoint Fault Refusal :=
  match exec i e.core with
  | .next t =>
    .next { core := t, transport := (newItems e.core t).foldl Transport.react e.transport }
  | .fault f => .fault f
  | .refused r => .refused r

/-- The events an application may issue at any time (E9). -/
def isApplication : Instr → Bool
  | .connectReq | .disconnectReq | .txRaw _ _ | .txMove _ _ _ | .txControl _ _ _
  | .txTarget _ _ => true
  | .tpUp | .tpDown | .tick | .rxChunk _ | .reservedEv _ | .heartbeat | .move _ _ _
  | .control _ _ _ _ | .target _ _ | .unassignedKind _ _ | .malformedKnownKind _ _ => false

/-- The moves of the environment. -/
inductive Move where
  /-- The application issues an event (E9). -/
  | app (i : Instr)
  /-- One time unit elapses (E7, E8). -/
  | tick
  /-- The transport reports a connect success (E1). -/
  | tpUp
  /-- The transport reports a connect failure, an abrupt close (E5), or the close of a session that
  the block closed (E2). -/
  | tpDown
  /-- Bytes of the current session reach the ingress (E3). -/
  | arrive (bytes : List Byte)
  /-- The ingress delivers its next `n` bytes as one RX_CHUNK (E6). -/
  | deliver (n : Nat)
deriving DecidableEq, Repr

/-- One move on an endpoint. -/
def Endpoint.move (m : Move) (e : Endpoint) : Host.Outcome Endpoint Fault Refusal :=
  match m with
  | .app i =>
    if isApplication i && i.wf e.core.cfg then e.take i else .refused (.environmentDuty 9)
  | .tick => e.take .tick
  | .tpUp =>
    if e.transport.attempt then
      Endpoint.take .tpUp
        { e with transport := { attempt := false, session := true, closing := false, ingress := [] } }
    else .refused (.environmentDuty 1)
  | .tpDown =>
    if e.transport.attempt || e.transport.session || e.transport.closing then
      Endpoint.take .tpDown { e with transport := Transport.idle }
    else .refused (.environmentDuty 1)
  | .arrive bytes =>
    if e.transport.session then
      .next { e with transport := { e.transport with ingress := e.transport.ingress ++ bytes } }
    else .refused (.environmentDuty 3)
  | .deliver n =>
    if e.transport.session = false then .refused (.environmentDuty 2)
    else if n ≤ e.transport.ingress.length ∧ n ≤ e.core.cfg.chunkMax then
      Endpoint.take (.rxChunk (e.transport.ingress.take n))
        { e with transport := { e.transport with ingress := e.transport.ingress.drop n } }
    else .refused (.environmentDuty 3)

/-- The moves in order, stopping at the first that is not possible. -/
def Endpoint.run : List Move → Endpoint → Host.Outcome Endpoint Fault Refusal
  | [], e => .next e
  | m :: ms, e =>
    match e.move m with
    | .next e' => Endpoint.run ms e'
    | .fault f => .fault f
    | .refused r => .refused r

/-! ## Two endpoints -/

/-- The bytes of the TX items among some output items, in order (R63). -/
def txBytes : List OutItem → List Byte
  | [] => []
  | .tx b :: os => b ++ txBytes os
  | .tpc _ :: os => txBytes os
  | .status _ _ _ :: os => txBytes os
  | .frame _ _ :: os => txBytes os
  | .cmd _ :: os => txBytes os
  | .err _ :: os => txBytes os

/-- One direction between two endpoints: a FIFO stream of bytes in flight (R64). -/
structure Wire where
  /-- The bytes in flight, the oldest first. -/
  bytes : List Byte
  /-- How many of them, from the front, were in flight when the reading end last left a session: a
  transport that counts them to that session does not deliver them (E2, E3; log entry 21). -/
  stale : Nat
deriving DecidableEq, Repr

/-- Two endpoints and the two streams between them (R64, R214). Each end hears of its own sessions only, by
its own TP_UP, and leaves them by itself. A byte belongs to the session of the reading end in which it
arrives, whichever session it was written in: that is the model's reading (log entry 21). -/
structure Pair where
  left : Endpoint
  right : Endpoint
  toRight : Wire
  toLeft : Wire
deriving DecidableEq, Repr

/-- A stream with nothing in flight. -/
def Wire.empty : Wire := { bytes := [], stale := 0 }

/-- Two endpoints right after reset, with nothing in flight. -/
def Pair.reset (cl cr : Config) : Pair :=
  { left := Endpoint.reset cl, right := Endpoint.reset cr, toRight := Wire.empty, toLeft := Wire.empty }

/-- The same pair seen from the other end. -/
def Pair.mirror (p : Pair) : Pair :=
  { left := p.right, right := p.left, toRight := p.toLeft, toLeft := p.toRight }

/-- The moves of a pair. An endpoint's bytes come from the other's TX stream only. -/
inductive PairMove where
  | left (m : Move)
  | right (m : Move)
  /-- The next `n` bytes in flight to the left end reach its ingress. -/
  | carryLeft (n : Nat)
  /-- The next `n` bytes in flight to the right end reach its ingress. -/
  | carryRight (n : Nat)
  /-- The next `n` bytes in flight to the left end are lost with the session it has left. -/
  | loseLeft (n : Nat)
  /-- The next `n` bytes in flight to the right end are lost with the session it has left. -/
  | loseRight (n : Nat)
deriving DecidableEq, Repr

/-- Whether a move brings bytes from nowhere: in a pair they come from the peer. -/
def Move.isArrive : Move → Bool
  | .arrive _ => true
  | .app _ | .tick | .tpUp | .tpDown | .deliver _ => false

/-- Bytes join the end of a stream. -/
def Wire.write (bytes : List Byte) (w : Wire) : Wire := { w with bytes := w.bytes ++ bytes }

/-- Bytes leave the front of a stream. -/
def Wire.drop (n : Nat) (w : Wire) : Wire := { bytes := w.bytes.drop n, stale := w.stale - n }

/-- The reading end leaves its session: what is in flight to it may be lost with it, or come later. -/
def Wire.leave (w : Wire) : Wire := { w with stale := w.bytes.length }

/-- One move of the left endpoint of a pair. The bytes of its TX items join its stream, whole and in order
(R63, R64). -/
def Pair.moveLeft (m : Move) (p : Pair) : Host.Outcome Pair Fault Refusal :=
  if m.isArrive then .refused (.environmentDuty 3)
  else match p.left.move m with
    | .next e =>
      .next { p with
        left := e
        toRight := p.toRight.write (txBytes (newItems p.left.core e.core))
        toLeft :=
          if p.left.transport.session && !e.transport.session then p.toLeft.leave else p.toLeft }
    | .fault f => .fault f
    | .refused r => .refused r

/-- The next `n` bytes in flight reach the right ingress, in its current session (R64, E3). -/
def Pair.carry (n : Nat) (p : Pair) : Host.Outcome Pair Fault Refusal :=
  if n ≤ p.toRight.bytes.length then
    match p.right.move (.arrive (p.toRight.bytes.take n)) with
    | .next e => .next { p with right := e, toRight := p.toRight.drop n }
    | .fault f => .fault f
    | .refused r => .refused r
  else .refused (.environmentDuty 3)

/-- While the right end has no current session, bytes that were in flight to the one it has left may be
lost; no others are (R64, E2, E3; log entry 21). -/
def Pair.lose (n : Nat) (p : Pair) : Host.Outcome Pair Fault Refusal :=
  if p.right.transport.session = false ∧ n ≤ p.toRight.stale then
    .next { p with toRight := p.toRight.drop n }
  else .refused (.environmentDuty 3)

/-- An outcome seen from the other end. -/
def mirrorOutcome : Host.Outcome Pair Fault Refusal → Host.Outcome Pair Fault Refusal
  | .next p => .next p.mirror
  | .fault f => .fault f
  | .refused r => .refused r

/-- One move of a pair. -/
def Pair.move (m : PairMove) (p : Pair) : Host.Outcome Pair Fault Refusal :=
  match m with
  | .left m => p.moveLeft m
  | .right m => mirrorOutcome (p.mirror.moveLeft m)
  | .carryLeft n => mirrorOutcome (p.mirror.carry n)
  | .carryRight n => p.carry n
  | .loseLeft n => mirrorOutcome (p.mirror.lose n)
  | .loseRight n => p.lose n

/-- The moves in order, stopping at the first that is not possible. -/
def Pair.run : List PairMove → Pair → Host.Outcome Pair Fault Refusal
  | [], p => .next p
  | m :: ms, p =>
    match p.move m with
    | .next p' => Pair.run ms p'
    | .fault f => .fault f
    | .refused r => .refused r

end Sys2Proof.Machine
end

