-- ==== Sys2Proof/Machine/FaultClasses.lean ====
section
/-! DEFINITION. The fault classes of 60_exceptions.md R200 and which of them an event detects in a
state (R200's column "detected by"). No register holds a fault code (R200): this is the model's fault
vocabulary, it changes nothing. -/

namespace Sys2Proof.Machine

/-- The six classes of R200. -/
inductive FaultClass where
  | transport
  | framing
  | semantic
  | liveness
  | capacity
  | programming
deriving DecidableEq, Repr

/-- The fault codes of R200. -/
def FaultClass.code : FaultClass → Nat
  | .transport => 1
  | .framing => 2
  | .semantic => 3
  | .liveness => 4
  | .capacity => 5
  | .programming => 6

/-- Whether a frame is dropped by dispatch: an unknown kind, or a known kind of the wrong length
(R141, R146, R204). -/
def isSemanticFault (c : Config) (kind : Byte) (payload : List Byte) : Bool :=
  match classifyFrame c kind payload with
  | .unassignedKind _ _ | .malformedKnownKind _ _ => true
  | .connectReq | .disconnectReq | .tpUp | .tpDown | .tick | .rxChunk _ | .txRaw _ _
  | .txMove _ _ _ | .txControl _ _ _ | .txTarget _ _ | .reservedEv _ | .heartbeat | .move _ _ _
  | .control _ _ _ _ | .target _ _ => false

/-- The faults at most `n` passes of the loop absorb, in order: a dropped byte is a framing fault
(R123, R126), waiting on a truncated frame is one (R124, log entry 18), a frame that dispatch drops is
a semantic fault. -/
def loopFaults : Nat → State → List FaultClass
  | 0, _ => []
  | n + 1, s =>
    match nextPass s with
    | .error _ => []
    | .ok .stop => if s.rxbuf.length < s.cfg.minFrame then [] else [.framing]
    | .ok .drop => .framing :: loopFaults n (s.bufDrop 1)
    | .ok (.yield kind payload total) =>
      let rest := loopFaults n (yieldFrame kind payload total s)
      if isSemanticFault s.cfg kind payload then .semantic :: rest else rest

/-- The faults of `TxSend`: an oversized payload (R111). -/
def sendFaults (payload : List Byte) (s : State) : List FaultClass :=
  if s.cfg.maxPayload < payload.length then [.programming] else []

/-- The faults an event detects in a state, in the order of R209. -/
def detectedFaults (i : Instr) (s : State) : List FaultClass :=
  match i with
  | .tpDown =>
    match s.linkState with
    | .connected | .connecting => [.transport]
    | .disconnected | .reconnecting => []
  | .tick =>
    if s.linkState = .connected ∧ s.hbDiv + 1 = s.cfg.hbPeriod ∧
        s.cfg.hbMissLimit < s.missCnt + 1 then [.liveness] else []
  | .rxChunk d =>
    if s.linkState ≠ .connected then []
    else
      let s1 := receive d s
      (if s.cfg.rxCap < (s.bufAppend d).rxbuf.length then [.capacity] else []) ++
        loopFaults s1.rxbuf.length s1
  | .txRaw _ payload => sendFaults payload s
  | .txMove f l r => sendFaults (wrI16 f ++ wrI16 l ++ wrI16 r) s
  | .txControl p q mode => sendFaults [flagByte (readFlag p), flagByte (readFlag q), mode, 0x00] s
  | .txTarget x y => sendFaults (wrI16 x ++ wrI16 y) s
  | .unassignedKind _ _ | .malformedKnownKind _ _ => [.semantic]
  | .connectReq | .disconnectReq | .tpUp | .reservedEv _ | .heartbeat | .move _ _ _
  | .control _ _ _ _ | .target _ _ => []

end Sys2Proof.Machine
end

