-- ==== Sys2Proof/Machine/Observe.lean ====
section
/-! DEFINITION. What an observer of OUT sees, written from the rules beside the meanings: the FRAME tap
(10_state.md R33), the items of a yielded frame (42_dispatch.md R147), the rows of the transition relation
(43_supervisor.md R167), a stream of frames, and the frames in a stream (41_reassembler.md R129). No step
uses these. -/

namespace Sys2Proof.Machine

/-- The frames among some output items, in order: the FRAME tap (R33). -/
def tapFrames : List OutItem → List (Byte × List Byte)
  | [] => []
  | .frame k p :: os => (k, p) :: tapFrames os
  | .tx _ :: os => tapFrames os
  | .tpc _ :: os => tapFrames os
  | .status _ _ _ :: os => tapFrames os
  | .cmd _ :: os => tapFrames os
  | .err _ :: os => tapFrames os

/-- What one frame's dispatch appends to OUT behind its FRAME item (R140–R146). -/
def dispatchItems (c : Config) (kind : Byte) (payload : List Byte) : List OutItem :=
  match classifyFrame c kind payload with
  | .heartbeat => [.tx (frameBytes c c.kindHeartbeat [])]
  | .move f l r => [.cmd (.move f.toInt l.toInt r.toInt)]
  | .control p q mode reserved => [.cmd (.control (readFlag p) (readFlag q) mode reserved)]
  | .target x y => [.cmd (.target x.toInt y.toInt)]
  | .unassignedKind _ _ | .malformedKnownKind _ _ | .connectReq | .disconnectReq | .tpUp | .tpDown
  | .tick | .rxChunk _ | .txRaw _ _ | .txMove _ _ _ | .txControl _ _ _ | .txTarget _ _
  | .reservedEv _ => []

/-- What a yielded frame appends to OUT: its FRAME item, then its dispatch's (R147). -/
def frameItems (c : Config) (kind : Byte) (payload : List Byte) : List OutItem :=
  .frame kind payload :: dispatchItems c kind payload

/-- What a sequence of yielded frames appends to OUT, in stream order (R147). -/
def framesItems (c : Config) : List (Byte × List Byte) → List OutItem
  | [] => []
  | (k, p) :: fs => frameItems c k p ++ framesItems c fs

/-- A row of the transition relation of R167. -/
structure TransitionRow where
  source : LinkState
  event : Instr
  target : LinkState
  command : Option TpCommand
  reason : Reason
deriving DecidableEq, Repr

/-- The nine rows of R167. -/
def transitionTable : List TransitionRow :=
  [⟨.disconnected, .connectReq, .connecting, some .connect, .connectRequested⟩,
   ⟨.connecting, .tpUp, .connected, none, .connected⟩,
   ⟨.connecting, .tpDown, .reconnecting, none, .connectFailed⟩,
   ⟨.connecting, .disconnectReq, .disconnected, some .disconnect, .userDisconnect⟩,
   ⟨.connected, .disconnectReq, .disconnected, some .disconnect, .userDisconnect⟩,
   ⟨.connected, .tpDown, .reconnecting, none, .transportLost⟩,
   ⟨.connected, .tick, .reconnecting, some .abort, .heartbeatTimeout⟩,
   ⟨.reconnecting, .tick, .connecting, some .connect, .retry⟩,
   ⟨.reconnecting, .disconnectReq, .disconnected, none, .userDisconnect⟩]

/-- What a transition appends to OUT: its transport command, then its STATUS item (R166, R175). -/
def TransitionRow.items (r : TransitionRow) : List OutItem :=
  (match r.command with
   | some c => [.tpc c]
   | none => []) ++ [.status r.target.isConnected r.target r.reason]

/-- The bytes of a sequence of frames (R132). -/
def frameStream (c : Config) : List (Byte × List Byte) → List Byte
  | [] => []
  | (k, p) :: fs => frameBytes c k p ++ frameStream c fs

/-- The frames in a byte sequence and what is left of it, at most `n` passes: "`decode`, and on `Invalid`
drop one byte", waiting below `MIN_FRAME` bytes (R129). -/
def scanFor (c : Config) : Nat → List Byte → List (Byte × List Byte) × List Byte
  | 0, buf => ([], buf)
  | n + 1, buf =>
    if buf.length < c.minFrame then ([], buf)
    else match decodeFrame c buf with
      | .incomplete => ([], buf)
      | .invalid => scanFor c n (buf.drop 1)
      | .frame kind payload =>
        let rest := scanFor c n (buf.drop (payload.length + 4))
        ((kind, payload) :: rest.1, rest.2)

/-- The frames in a byte sequence, in order, and what is left of it (R122, R129). -/
def scan (c : Config) (buf : List Byte) : List (Byte × List Byte) × List Byte :=
  scanFor c buf.length buf

end Sys2Proof.Machine
end

