-- ==== Sys2Proof/Safety.lean ====
section
/-! DEFINITION. What counts as a safe state and a safe run, in the terms the statements use: the
invariants of 10_state.md R36 and sequences of events. -/

namespace Sys2Proof.Machine

/-- (I1) of R36: the buffer fits its capacity. -/
def State.bufferFits (s : State) : Bool := Memory.wf s.cfg s.rxbuf

/-- (I2) of R36: fewer than `MIN_FRAME` bytes, or a SOF with fewer bytes than its declared total. -/
def parked (c : Config) (buf : List Byte) : Bool :=
  decide (buf.length < c.minFrame) ||
    (decide (buf[0]? = some c.sof) &&
      (match buf[2]? with
       | some len => decide (buf.length < frameTotal len)
       | none => false))

/-- (I3) of R36: the timer phases stay below their periods. -/
def State.phasesFit (s : State) : Bool :=
  decide (s.hbDiv < s.cfg.hbPeriod) && decide (s.rtDiv < s.cfg.retryPeriod)

/-- (I4) and (I5) of R36: the miss counter's bounds. -/
def State.missesFit (s : State) : Bool :=
  decide (s.missCnt ≤ s.cfg.hbMissLimit + 1) &&
    (!decide (s.linkState = .connected) || decide (s.missCnt ≤ s.cfg.hbMissLimit))

/-- The invariants I1 to I5 of R36, for a configuration within the ranges of R7. -/
def State.inv (s : State) : Bool :=
  s.cfg.wf && s.bufferFits && parked s.cfg s.rxbuf && s.phasesFit && s.missesFit

/-- No fault recorded (R27, R202: the premise "`fault_ptl = 0`"). -/
def State.noFaultRecorded (s : State) : Bool := !s.faultPtl

/-- Events in order, stopping at the first fault or refusal. -/
def runEvents : List Instr → State → Host.Outcome State Fault Refusal
  | [], s => .next s
  | i :: is, s =>
    match exec i s with
    | .next t => runEvents is t
    | .fault f => .fault f
    | .refused r => .refused r

/-- A sequence of RX_CHUNK events (R130). -/
def runChunks (cs : List (List Byte)) (s : State) : Host.Outcome State Fault Refusal :=
  runEvents (cs.map .rxChunk) s

/-- The overflow clear of R121 does not fire on any chunk of a sequence (the condition of R130). -/
def noOverflow : List (List Byte) → State → Bool
  | [], _ => true
  | c :: cs, s =>
    decide (s.rxbuf.length + c.length ≤ s.cfg.rxCap) &&
      (match exec (.rxChunk c) s with
       | .next t => noOverflow cs t
       | .fault _ => true
       | .refused _ => true)

/-- The number of TICK events in a sequence. -/
def tickCount : List Instr → Nat
  | [] => 0
  | i :: is => (if i = .tick then 1 else 0) + tickCount is

/-- A frame in which no byte but the first equals SOF (R132 iii). -/
def sofOnlyAtStart (c : Config) (f : Byte × List Byte) : Bool :=
  decide (f.2.length ≤ 255) && !((frameBytes c f.1 f.2).tail.contains c.sof)

/-- The block and its transport agree: an unanswered attempt exactly in CONNECTING, a current session
exactly in CONNECTED, and ingress bytes only in a session (R243 E1 to E3). -/
def Endpoint.agrees (e : Endpoint) : Bool :=
  decide (e.transport.attempt = decide (e.core.linkState = .connecting)) &&
    decide (e.transport.session = decide (e.core.linkState = .connected)) &&
    (e.transport.session || decide (e.transport.ingress = []))

/-- Both ends of a pair agree with their transports, and no more bytes count to a session that was left than
are in flight (R64; log entry 21). -/
def Pair.agrees (p : Pair) : Bool :=
  p.left.agrees && p.right.agrees && decide (p.toRight.stale ≤ p.toRight.bytes.length) &&
    decide (p.toLeft.stale ≤ p.toLeft.bytes.length)

/-- How many bytes the moves of a pair take from the stream to the right end: carried or lost. -/
def takenToRight : List PairMove → Nat
  | [] => 0
  | .carryRight n :: ms => n + takenToRight ms
  | .loseRight n :: ms => n + takenToRight ms
  | .left _ :: ms => takenToRight ms
  | .right _ :: ms => takenToRight ms
  | .carryLeft _ :: ms => takenToRight ms
  | .loseLeft _ :: ms => takenToRight ms

/-- The same for the stream to the left end. -/
def takenToLeft : List PairMove → Nat
  | [] => 0
  | .carryLeft n :: ms => n + takenToLeft ms
  | .loseLeft n :: ms => n + takenToLeft ms
  | .left _ :: ms => takenToLeft ms
  | .right _ :: ms => takenToLeft ms
  | .carryRight _ :: ms => takenToLeft ms
  | .loseRight _ :: ms => takenToLeft ms

end Sys2Proof.Machine
end

