-- ==== Sys2Proof/Certificates/Slice0/Obligations.lean ====
section
/-! DEFINITION. The statements for the provers. Each docstring names the rule of spec/ it formalises.
A statement about a next state gives the whole next state by a record update, so it states the frame as
well: every field it does not name, the parameters and the port among them, is unchanged. -/

open Sys2Proof Sys2Proof.Machine

/-! ## Parameters, reset, status word -/

/-- R6, R22, R176, R200, R202: the tabled parameters, the derived frame lengths, the kinds and their
payload lengths, and the encodings of the link states, of the status reasons, of the fault classes and of
the error report; the OPEN parameters are arguments. -/
def Obligations.ParametersAndCodesAreTheTabledOnes : Prop :=
  ∀ (cap chunk depth dur : Nat) (tgt : TransportTarget),
    let c := Config.hardware cap chunk depth dur tgt
    c.sof = 0xAA ∧ c.eof = 0x55 ∧ c.maxPayload = 252 ∧ c.hdrLen = 3 ∧ c.minFrame = 4 ∧
    c.maxValidFrame = 256 ∧ c.maxStructFrame = 259 ∧ c.hbPeriod = 2 ∧ c.hbMissLimit = 3 ∧
    c.retryPeriod = 3 ∧ c.rxCap = cap ∧ c.chunkMax = chunk ∧ c.cdcDepth = depth ∧
    c.tickDuration = dur ∧ c.target = tgt ∧
    c.kindHeartbeat = 0x00 ∧ c.kindMove = 0x01 ∧ c.kindControl = 0x02 ∧ c.kindTarget = 0x03 ∧
    c.lenHeartbeat = 0 ∧ c.lenMove = 6 ∧ c.lenControl = 4 ∧ c.lenTarget = 4 ∧
    c.framesTabled = true ∧ (1 ≤ cap → chunk ≤ 65535 → c.wf = true) ∧
    LinkState.disconnected.code = 0 ∧ LinkState.connecting.code = 1 ∧ LinkState.connected.code = 2 ∧
    LinkState.reconnecting.code = 3 ∧
    Reason.connectRequested.code = 0 ∧ Reason.connected.code = 1 ∧ Reason.userDisconnect.code = 2 ∧
    Reason.transportLost.code = 3 ∧ Reason.connectFailed.code = 4 ∧
    Reason.heartbeatTimeout.code = 5 ∧ Reason.retry.code = 6 ∧
    FaultClass.transport.code = 1 ∧ FaultClass.framing.code = 2 ∧ FaultClass.semantic.code = 3 ∧
    FaultClass.liveness.code = 4 ∧ FaultClass.capacity.code = 5 ∧ FaultClass.programming.code = 6 ∧
    ErrCode.payloadTooLarge.code = 0x01

/-- R37, R230: reset, applied in any state, leaves every field at its reset value with OUT empty,
discards the waiting events, and satisfies the invariants of R36 for every configuration in range. That
the parameters survive is the model's choice (log entry 15). -/
def Obligations.ResetGivesTheResetValuesInAnyState : Prop :=
  ∀ s : State,
    s.applyReset.linkState = .disconnected ∧ s.applyReset.missCnt = 0 ∧ s.applyReset.hbDiv = 0 ∧
    s.applyReset.rtDiv = 0 ∧ s.applyReset.rxbuf = [] ∧ s.applyReset.faultPtl = false ∧
    s.applyReset.out = [] ∧ s.applyReset.port = [] ∧ s.applyReset.cfg = s.cfg ∧
    s.applyReset.lstat = 0 ∧ (s.cfg.wf = true → s.applyReset.inv = true) ∧
    State.reset = (State.reset).applyReset

/-- R231: in DISCONNECTED, so also right after reset, only CONNECT_REQ has an effect, but for a TX
request that raises PayloadTooLarge. -/
def Obligations.OnlyConnectReqHasAnEffectWhenDisconnected : Prop :=
  ∀ (i : Instr) (s t : State), s.linkState = .disconnected → i.isEvent = true → i ≠ .connectReq →
    exec i s = .next t →
    t = s ∨ (detectedFaults i s = [.programming] ∧
      t = { s with faultPtl := true, out := s.out ++ [.err .payloadTooLarge] })

/-- R31: the fields of LSTAT, for the standard widths (`HB_MISS_LIMIT` ≤ 14, `RX_CAP` ≤ 65535), and
that a write to it has no effect. -/
def Obligations.StatusWordFieldsReadTheState : Prop :=
  ∀ s : State, s.inv = true → s.cfg.hbMissLimit ≤ 14 → s.cfg.rxCap ≤ 65535 →
    s.lstat % 4 = s.linkState.code ∧
    s.lstat / 4 % 2 = (if s.linkState = .connected then 1 else 0) ∧
    s.lstat / 8 % 2 = (if s.faultPtl = true then 1 else 0) ∧
    s.lstat / 16 % 16 = s.missCnt ∧
    s.lstat / 256 % 256 = 0 ∧
    s.lstat / 65536 = s.rxbuf.length ∧
    s.lstat < 4294967296 ∧
    ∀ v : Nat, s.writeLstat v = s

/-! ## Encodings -/

/-- R79, R80, R53: little-endian int16 fields at any payload offset, and the boolean bytes. -/
def Obligations.OperandFieldsAreLittleEndianAndFlagsNormalised : Prop :=
  (∀ (v : I16) (before behind : List Byte),
    rdI16 (before ++ wrI16 v ++ behind) before.length = some v.toInt) ∧
  (∀ v : I16, (loByte v).toNat = v.toNat % 256 ∧ (hiByte v).toNat = v.toNat / 256 ∧
    wrI16 v = [loByte v, hiByte v] ∧ -32768 ≤ v.toInt ∧ v.toInt ≤ 32767) ∧
  flagByte true = 0x01 ∧ flagByte false = 0x00 ∧ readFlag 0x00 = false ∧
  ∀ b : Byte, b ≠ 0x00 → readFlag b = true

/-- R86, R75 to R78: words written out from the spec's encodings decode to their instructions, for this
hardware with any OPEN parameters and a `CHUNK_MAX` that admits the RX_CHUNK's 4 bytes. -/
def Obligations.WrittenOutWordsDecode : Prop :=
  ∀ (cap chunk depth dur : Nat) (tgt : TransportTarget), 4 ≤ chunk →
    let c := Config.hardware cap chunk depth dur tgt
    decodeEvent c [0x05] = .ok (.tick, []) ∧
    decodeEvent c [0x10, 0x04, 0x00, 0xAA, 0x00, 0x00, 0x55] =
      .ok (.rxChunk [0xAA, 0x00, 0x00, 0x55], []) ∧
    decodeEvent c [0x21, 0x9C, 0xFF, 0x00, 0x00, 0x2C, 0x01] =
      .ok (.txMove (BitVec.ofInt 16 (-100)) 0 300, []) ∧
    decodeEvent c [0x22, 0x05, 0x00, 0xFF] = .ok (.txControl 0x05 0x00 0xFF, []) ∧
    decodeFrameInstr c [0xAA, 0x03, 0x04, 0x9C, 0xFF, 0x2C, 0x01, 0x55] =
      some (.target (BitVec.ofInt 16 (-100)) 300) ∧
    decodeFrameInstr c [0xAA, 0x00, 0x01, 0x00, 0x55] = some (.malformedKnownKind 0x00 [0x00])

/-- R71, R86, R87: every opcode byte matches exactly one EV row, and what the decoder reads from an event
word with that opcode carries that row's mnemonic. -/
def Obligations.OneEventRowDecidesEveryOpcode : Prop :=
  ∀ op : Byte,
    (eventRows ++ reservedRows).countP (fun r => r.fits op) = 1 ∧
    ∀ (c : Config) (w rest : List Byte) (i : Instr), decodeEvent c (op :: w) = .ok (i, rest) →
      evMnemonic op = some i.mnemonic

/-- R71, R74, R81, R82: for every header word of a frame at most one priority-1 row matches, and the row
that decides names the class of the frame, whatever its payload bytes. The rows print the tabled kinds and
lengths, so the configuration has them. -/
def Obligations.OneHeaderRowDecidesEveryFrame : Prop :=
  ∀ (c : Config) (kind len : Byte) (payload : List Byte), c.framesTabled = true →
    payload.length = len.toNat →
    frameRows.countP (fun r => r.priority == 1 && r.fits (headerWord 0xAA kind len)) ≤ 1 ∧
    frameMnemonic (headerWord 0xAA kind len) = some (classifyFrame c kind payload).mnemonic

/-- R85, R86, R88: every event word of a well-formed event decodes to that event, with every operand,
and leaves the bytes behind it. That the word of a reserved opcode is its one byte, with the rest left, is
the model's choice (log entry 7). -/
def Obligations.EventWordsDecodeToTheirEvents : Prop :=
  ∀ (c : Config) (i : Instr) (rest : List Byte), i.isEvent = true → i.wf c = true →
    decodeEvent c (encodeEvent i ++ rest) = .ok (i, rest)

/-- R85, R86, R88: whatever the decoder reads is a well-formed event, and the bytes it took are that
event's event word: an event word has one meaning. That the word of a reserved opcode is its one byte is
the model's choice (log entry 7). -/
def Obligations.DecodedEventsComeFromTheirEventWords : Prop :=
  ∀ (c : Config) (w rest : List Byte) (i : Instr), c.chunkMax ≤ 65535 →
    decodeEvent c w = .ok (i, rest) →
    i.isEvent = true ∧ i.wf c = true ∧ w = encodeEvent i ++ rest

/-- R70, R74 to R82: every wire frame of a well-formed frame class decodes to that class, with every
operand, whatever bytes stand behind it, for every numbering of the kinds and lengths that tells them
apart. -/
def Obligations.WireFramesDecodeToTheirClasses : Prop :=
  ∀ (c : Config) (i : Instr) (rest : List Byte), i.isFrame = true → i.wf c = true →
    decodeFrameInstr c (encode c i ++ rest) = some i

/-! ## Frame Codec -/

/-- R100, R101, R105: the bytes of `encode`, its error, and the bounds of its output: 4 to
`MAX_VALID_FRAME` bytes (256 for `MAX_PAYLOAD` 252) with a length byte of at most `MAX_PAYLOAD`. -/
def Obligations.EncodeBuildsTheFrameOrRaises : Prop :=
  ∀ (c : Config) (kind : Byte) (payload : List Byte),
    (payload.length ≤ c.maxPayload →
      encodeFrame c kind payload =
        .ok ([c.sof, kind, BitVec.ofNat 8 payload.length] ++ payload ++ [c.eof])) ∧
    (c.maxPayload < payload.length →
      encodeFrame c kind payload = .error (.payloadTooLarge payload.length)) ∧
    ∀ w, c.maxPayload ≤ 255 → encodeFrame c kind payload = .ok w →
      4 ≤ w.length ∧ w.length ≤ c.maxPayload + 4 ∧
      ∃ len, w[2]? = some len ∧ len.toNat ≤ c.maxPayload

/-- R112: the codec's round trip. -/
def Obligations.CodecRoundTrip : Prop :=
  ∀ (c : Config) (kind : Byte) (payload : List Byte), c.maxPayload ≤ 255 →
    payload.length ≤ c.maxPayload →
    ∃ w, encodeFrame c kind payload = .ok w ∧ decodeFrame c w = .frame kind payload

/-- R113: `encode` is injective on its domain. -/
def Obligations.EncodeIsInjective : Prop :=
  ∀ (c : Config) (k1 k2 : Byte) (p1 p2 w : List Byte),
    encodeFrame c k1 p1 = .ok w → encodeFrame c k2 p2 = .ok w → k1 = k2 ∧ p1 = p2

/-- R103: the short windows. -/
def Obligations.DecodeOfShortWindows : Prop :=
  ∀ c : Config,
    decodeFrame c [] = .incomplete ∧
    decodeFrame c [c.sof] = .incomplete ∧
    (∀ b : Byte, decodeFrame c [c.sof, b] = .incomplete) ∧
    ∀ w : List Byte, 1 ≤ w.length → w.length ≤ 3 → w[0]? ≠ some c.sof → decodeFrame c w = .invalid

/-- R104: `decode` looks only at the declared total, and a decoded frame has exactly that many bytes. -/
def Obligations.DecodeIgnoresBytesBehindTheFrame : Prop :=
  ∀ (c : Config) (w behind : List Byte) (len : Byte), w[2]? = some len → frameTotal len ≤ w.length →
    decodeFrame c (w.take (frameTotal len) ++ behind) = decodeFrame c w ∧
    ∀ (kind : Byte) (payload : List Byte), decodeFrame c w = .frame kind payload →
      payload.length + 4 = frameTotal len

/-- R106, R83: the receiver accepts every length byte, the longest frame has 259 bytes, and dispatch
does nothing with a frame longer than any command. -/
def Obligations.StructuralOnlyFramesAreAcceptedAndDropped : Prop :=
  (∀ (c : Config) (kind : Byte) (payload : List Byte), payload.length ≤ 255 →
    decodeFrame c (frameBytes c kind payload) = .frame kind payload) ∧
  (∀ (c : Config) (w : List Byte) (kind : Byte) (payload : List Byte),
    decodeFrame c w = .frame kind payload → payload.length + 4 ≤ 259) ∧
  ∀ (kind : Byte) (payload : List Byte) (s : State), s.cfg.framesTabled = true →
    253 ≤ payload.length → dispatch kind payload s = s

/-! ## TX events -/

/-- R107, R111, R202: TX_RAW, with its event word, sends one frame; the size check comes before the
link-state check. -/
def Obligations.TxRawSendsDropsOrReports : Prop :=
  ∀ (kind : Byte) (payload : List Byte) (s : State),
    (payload.length ≤ 255 → ∀ rest,
      decodeEvent s.cfg (0x20 :: kind :: BitVec.ofNat 8 payload.length :: (payload ++ rest)) =
        .ok (.txRaw kind payload, rest)) ∧
    (s.cfg.maxPayload < payload.length → exec (.txRaw kind payload) s =
      .next { s with faultPtl := true, out := s.out ++ [.err .payloadTooLarge] }) ∧
    (payload.length ≤ s.cfg.maxPayload → s.linkState ≠ .connected →
      exec (.txRaw kind payload) s = .next s) ∧
    (payload.length ≤ s.cfg.maxPayload → s.linkState = .connected →
      exec (.txRaw kind payload) s = .next { s with
        out := s.out ++
          [.tx ([s.cfg.sof, kind, BitVec.ofNat 8 payload.length] ++ payload ++ [s.cfg.eof])] })

/-- R108, R76: TX_MOVE, with its event word. -/
def Obligations.TxMoveSendsItsFrame : Prop :=
  ∀ (f l r : I16) (s : State),
    (∀ rest, decodeEvent s.cfg
      (0x21 :: loByte f :: hiByte f :: loByte l :: hiByte l :: loByte r :: hiByte r :: rest) =
        .ok (.txMove f l r, rest)) ∧
    (6 ≤ s.cfg.maxPayload → s.linkState = .connected → exec (.txMove f l r) s =
      .next { s with out := s.out ++ [.tx [s.cfg.sof, s.cfg.kindMove, 6, loByte f, hiByte f,
        loByte l, hiByte l, loByte r, hiByte r, s.cfg.eof]] }) ∧
    (6 ≤ s.cfg.maxPayload → s.linkState ≠ .connected → exec (.txMove f l r) s = .next s)

/-- R109, R77, R80: TX_CONTROL, with its event word, sends its flags as 01 or 00, the mode unchanged and
the reserved byte 00. -/
def Obligations.TxControlSendsItsFrame : Prop :=
  ∀ (p q mode : Byte) (s : State),
    (∀ rest, decodeEvent s.cfg (0x22 :: p :: q :: mode :: rest) = .ok (.txControl p q mode, rest)) ∧
    (4 ≤ s.cfg.maxPayload → s.linkState = .connected → exec (.txControl p q mode) s =
      .next { s with out := s.out ++ [.tx [s.cfg.sof, s.cfg.kindControl, 4,
        if p = 0 then 0x00 else 0x01, if q = 0 then 0x00 else 0x01, mode, 0x00, s.cfg.eof]] }) ∧
    (4 ≤ s.cfg.maxPayload → s.linkState ≠ .connected → exec (.txControl p q mode) s = .next s)

/-- R110, R78: TX_TARGET, with its event word. -/
def Obligations.TxTargetSendsItsFrame : Prop :=
  ∀ (x y : I16) (s : State),
    (∀ rest, decodeEvent s.cfg (0x23 :: loByte x :: hiByte x :: loByte y :: hiByte y :: rest) =
      .ok (.txTarget x y, rest)) ∧
    (4 ≤ s.cfg.maxPayload → s.linkState = .connected → exec (.txTarget x y) s =
      .next { s with out := s.out ++ [.tx [s.cfg.sof, s.cfg.kindTarget, 4, loByte x, hiByte x,
        loByte y, hiByte y, s.cfg.eof]] }) ∧
    (4 ≤ s.cfg.maxPayload → s.linkState ≠ .connected → exec (.txTarget x y) s = .next s)

/-- The model's choice for a configuration whose `MAX_PAYLOAD` is too small for a typed TX event, which
is not this hardware's (log entry 19): the event raises PayloadTooLarge as R111 reads. -/
def Obligations.TypedTxEventsRaiseWhereTheirPayloadDoesNotFit : Prop :=
  ∀ s : State,
    (s.cfg.maxPayload < 6 → ∀ f l r, exec (.txMove f l r) s =
      .next { s with faultPtl := true, out := s.out ++ [.err .payloadTooLarge] }) ∧
    (s.cfg.maxPayload < 4 →
      (∀ p q mode, exec (.txControl p q mode) s =
        .next { s with faultPtl := true, out := s.out ++ [.err .payloadTooLarge] }) ∧
      ∀ x y, exec (.txTarget x y) s =
        .next { s with faultPtl := true, out := s.out ++ [.err .payloadTooLarge] })

/-- R202, R27, R101: PayloadTooLarge is the only reported fault; only a TX_RAW longer than `MAX_PAYLOAD`
raises it, and with it the sticky bit; no event clears the bit. -/
def Obligations.OnlyOversizedTxRawReportsAFault : Prop :=
  ∀ (i : Instr) (s t : State), 6 ≤ s.cfg.maxPayload → exec i s = .next t →
    (∀ e, OutItem.err e ∈ newItems s t →
      ∃ kind payload, i = .txRaw kind payload ∧ s.cfg.maxPayload < payload.length) ∧
    (t.faultPtl = true ↔ s.faultPtl = true ∨ OutItem.err .payloadTooLarge ∈ newItems s t)

/-! ## Received frames -/

/-- R142: a dispatched Heartbeat, with its frame, clears the miss counter and is echoed; nothing else
changes. -/
def Obligations.HeartbeatFrameIsEchoedAndClearsMisses : Prop :=
  ∀ s : State,
    (s.cfg.framesTabled = true →
      decodeFrameInstr s.cfg [s.cfg.sof, 0x00, 0x00, s.cfg.eof] = some .heartbeat ∧
      s.cfg.kindHeartbeat = 0x00) ∧
    exec .heartbeat s = .next { s with
      missCnt := 0
      out := s.out ++ [.tx [s.cfg.sof, s.cfg.kindHeartbeat, 0x00, s.cfg.eof]] }

/-- R143, R144, R145: a Move, Control or Target frame, with its bytes, gives its command, with every
value passed through, and changes nothing else. -/
def Obligations.CommandFramesGiveTheirCommands : Prop :=
  (∀ (f l r : I16) (s : State),
    (s.cfg.framesTabled = true →
      decodeFrameInstr s.cfg [s.cfg.sof, 0x01, 0x06, loByte f, hiByte f, loByte l, hiByte l, loByte r,
        hiByte r, s.cfg.eof] = some (.move f l r)) ∧
    exec (.move f l r) s =
      .next { s with out := s.out ++ [.cmd (.move f.toInt l.toInt r.toInt)] }) ∧
  (∀ (p q mode reserved : Byte) (s : State),
    (s.cfg.framesTabled = true →
      decodeFrameInstr s.cfg [s.cfg.sof, 0x02, 0x04, p, q, mode, reserved, s.cfg.eof] =
        some (.control p q mode reserved)) ∧
    exec (.control p q mode reserved) s = .next { s with out := s.out ++
      [.cmd (.control (decide (p ≠ 0)) (decide (q ≠ 0)) mode reserved)] }) ∧
  ∀ (x y : I16) (s : State),
    (s.cfg.framesTabled = true →
      decodeFrameInstr s.cfg [s.cfg.sof, 0x03, 0x04, loByte x, hiByte x, loByte y, hiByte y,
        s.cfg.eof] = some (.target x y)) ∧
    exec (.target x y) s = .next { s with out := s.out ++ [.cmd (.target x.toInt y.toInt)] }

/-- R141, R146: a frame of a known kind with the wrong payload length and a frame of an unassigned kind
leave the buffer, are shown on the FRAME tap, and do nothing. -/
def Obligations.MalformedAndUnassignedFramesDoNothing : Prop :=
  ∀ (kind : Byte) (payload : List Byte) (n : Nat) (s : State),
    exec (.malformedKnownKind kind payload) s = .next s ∧
    exec (.unassignedKind kind payload) s = .next s ∧
    ((∃ k, s.cfg.kindOf kind = some k ∧ payload.length ≠ s.cfg.kindLen k) →
      classifyFrame s.cfg kind payload = .malformedKnownKind kind payload ∧
      yieldFrame kind payload n s =
        { s with rxbuf := s.rxbuf.drop n, out := s.out ++ [.frame kind payload] }) ∧
    (s.cfg.framesTabled = true → (kind.toNat < 4 ↔ ∃ k, s.cfg.kindOf kind = some k)) ∧
    (s.cfg.kindOf kind = none →
      classifyFrame s.cfg kind payload = .unassignedKind kind payload ∧
      yieldFrame kind payload n s =
        { s with rxbuf := s.rxbuf.drop n, out := s.out ++ [.frame kind payload] })

/-- R140, R141, R146: dispatch selects by kind and exact payload size; the fields are read at their
offsets (R143 to R145). -/
def Obligations.DispatchSelectsByKindAndSize : Prop :=
  ∀ (payload : List Byte) (s : State), s.cfg.framesTabled = true →
    (dispatch 0x00 payload s = if payload.length = 0 then dispHeartbeat s else s) ∧
    (payload.length = 6 → ∃ f l r, rdI16 payload 0 = some f ∧ rdI16 payload 2 = some l ∧
      rdI16 payload 4 = some r ∧ dispatch 0x01 payload s = s.emit (.cmd (.move f l r))) ∧
    (payload.length ≠ 6 → dispatch 0x01 payload s = s) ∧
    (payload.length = 4 → ∃ p q mode reserved, payload[0]? = some p ∧ payload[1]? = some q ∧
      payload[2]? = some mode ∧ payload[3]? = some reserved ∧
      dispatch 0x02 payload s =
        s.emit (.cmd (.control (decide (p ≠ 0)) (decide (q ≠ 0)) mode reserved))) ∧
    (payload.length ≠ 4 → dispatch 0x02 payload s = s) ∧
    (payload.length = 4 → ∃ x y, rdI16 payload 0 = some x ∧ rdI16 payload 2 = some y ∧
      dispatch 0x03 payload s = s.emit (.cmd (.target x y))) ∧
    (payload.length ≠ 4 → dispatch 0x03 payload s = s) ∧
    ∀ kind : Byte, 4 ≤ kind.toNat → dispatch kind payload s = s

/-- R140 against R71: dispatch runs exactly the meaning of the frame's row in the opcode table. -/
def Obligations.DispatchRunsTheClassOfTheFrame : Prop :=
  ∀ (kind : Byte) (payload : List Byte) (s : State),
    exec (classifyFrame s.cfg kind payload) s = .next (dispatch kind payload s)

/-- R125, R140: a whole frame that reaches an empty buffer in CONNECTED is shown on the FRAME tap and its
row's instruction is executed, by the step that takes the RX_CHUNK. -/
def Obligations.StepRunsAReceivedFrameAsItsInstruction : Prop :=
  ∀ (s : State) (kind : Byte) (payload rest : List Byte), s.linkState = .connected → s.rxbuf = [] →
    s.cfg.wf = true → payload.length ≤ 255 →
    payload.length + 4 ≤ s.cfg.rxCap → payload.length + 4 ≤ s.cfg.chunkMax →
    s.port = encodeEvent (.rxChunk (frameBytes s.cfg kind payload)) ++ rest →
    step s = exec (classifyFrame s.cfg kind payload)
      { s with port := rest, out := s.out ++ [.frame kind payload] }

/-! ## Stream Reassembler -/

/-- R50: a read inside the buffer gives its bytes, a read outside faults; an append moves no byte, a drop
renumbers the rest. -/
def Obligations.BufferReadsAreChecked : Prop :=
  ∀ (s : State) (i n : Nat) (d : List Byte),
    (i + n ≤ s.rxbuf.length → s.memRead i n = .ok ((s.rxbuf.drop i).take n)) ∧
    (s.rxbuf.length < i + n → s.memRead i n = .error (.bufferReadOutOfRange i n)) ∧
    (i < s.rxbuf.length → (s.bufAppend d).readByte i = s.readByte i) ∧
    (s.rxbuf.length ≤ i → s.readByte i = .error (.bufferReadOutOfRange i 1)) ∧
    (s.bufDrop n).readByte i =
      (if n + i < s.rxbuf.length then s.readByte (n + i) else .error (.bufferReadOutOfRange i 1))

/-- R120, R121: outside CONNECTED a chunk is discarded; in CONNECTED a chunk that pushes the buffer past
`RX_CAP` is lost with the buffer; exactly `RX_CAP` bytes are kept and go through the loop. `MIN_FRAME` is
at least 3, so that no pass reads past the buffer (log entry 19). -/
def Obligations.RxChunkDiscardsClearsOrReassembles : Prop :=
  ∀ (d : List Byte) (s : State), 3 ≤ s.cfg.minFrame →
    (s.linkState ≠ .connected → exec (.rxChunk d) s = .next s) ∧
    (s.linkState = .connected → s.cfg.rxCap < s.rxbuf.length + d.length →
      exec (.rxChunk d) s = .next { s with rxbuf := [] }) ∧
    (s.linkState = .connected → s.rxbuf.length + d.length ≤ s.cfg.rxCap →
      ∃ t, reassemble { s with rxbuf := s.rxbuf ++ d } = .ok t ∧ exec (.rxChunk d) s = .next t)

/-- R123, R126: a byte that is not SOF, and a SOF whose declared frame does not end in EOF, leave alone,
one byte at a time, and the loop goes on. -/
def Obligations.ResyncDropsOneByte : Prop :=
  ∀ (s : State) (n : Nat) (b0 kind len b3 : Byte) (tl : List Byte),
    s.rxbuf = b0 :: kind :: len :: b3 :: tl → s.cfg.minFrame ≤ s.rxbuf.length →
    (b0 ≠ s.cfg.sof →
      reassembleFor (n + 1) s = reassembleFor n { s with rxbuf := kind :: len :: b3 :: tl }) ∧
    (b0 = s.cfg.sof → frameTotal len ≤ s.rxbuf.length →
      s.rxbuf[frameTotal len - 1]? ≠ some s.cfg.eof →
      reassembleFor (n + 1) s = reassembleFor n { s with rxbuf := kind :: len :: b3 :: tl })

/-- R129: a pass agrees with `decode` on a buffer of at least `MIN_FRAME` bytes; below it the loop
waits. -/
def Obligations.PassAgreesWithDecode : Prop :=
  (∀ s : State, s.rxbuf.length < s.cfg.minFrame → nextPass s = .ok .stop) ∧
  ∀ s : State, 3 ≤ s.cfg.minFrame → s.cfg.minFrame ≤ s.rxbuf.length →
    (decodeFrame s.cfg s.rxbuf = .invalid ↔ nextPass s = .ok .drop) ∧
    (decodeFrame s.cfg s.rxbuf = .incomplete ↔ nextPass s = .ok .stop) ∧
    ∀ (kind : Byte) (payload : List Byte),
      decodeFrame s.cfg s.rxbuf = .frame kind payload ↔
        nextPass s = .ok (.yield kind payload (payload.length + 4))

/-- R127: the loop ends within as many passes as the buffer has bytes, and leaves fewer than `MIN_FRAME`
bytes or a SOF with fewer bytes than its declared total, at most 258 in all. -/
def Obligations.LoopEndsParked : Prop :=
  ∀ s : State, s.cfg.wf = true → ∃ t, reassemble s = .ok t ∧
    (∀ n, s.rxbuf.length ≤ n → reassembleFor n s = .ok t) ∧
    parked t.cfg t.rxbuf = true ∧ t.rxbuf.length ≤ 258

/-- R120, R147, R148, R63, R128: an RX_CHUNK in CONNECTED completes. The frames it yields and what it
leaves in the buffer are those that `decode` finds in the old bytes followed by the chunk, dropping one
byte on `Invalid` (R129), and none after an overflow clear (R121). It appends to OUT, for these frames in
stream order, each FRAME item and that frame's dispatch outputs, and nothing else; it clears `miss_cnt`
exactly if one of them is a Heartbeat; and it writes nothing else. The frames stood in the stream one after
another, with what is left behind them, and none is longer than `RX_CAP`. -/
def Obligations.RxChunkOutputsItsFramesInOrder : Prop :=
  ∀ (d : List Byte) (s : State), s.linkState = .connected → 3 ≤ s.cfg.minFrame →
    ∃ (frames : List (Byte × List Byte)) (left : List Byte),
      (frames, left) = (if s.cfg.rxCap < (s.rxbuf ++ d).length then ([], [])
        else scan s.cfg (s.rxbuf ++ d)) ∧
      exec (.rxChunk d) s = .next { s with
        rxbuf := left
        missCnt := if ∃ f ∈ frames, classifyFrame s.cfg f.1 f.2 = .heartbeat then 0 else s.missCnt
        out := s.out ++ framesItems s.cfg frames } ∧
      (frameStream s.cfg frames ++ left).Sublist (s.rxbuf ++ d) ∧ left <:+ s.rxbuf ++ d ∧
      ∀ f ∈ frames, frameBytes s.cfg f.1 f.2 <:+: s.rxbuf ++ d ∧ f.2.length + 4 ≤ s.cfg.rxCap

/-- R131: an empty chunk changes nothing. -/
def Obligations.EmptyChunkChangesNothing : Prop :=
  ∀ s : State, s.inv = true → exec (.rxChunk []) s = .next s

/-- R130, C5: in one session with no overflow clear, what a sequence of chunks does depends only on the
bytes, not on where the boundaries fall; and without that condition it does not hold: R130's example. -/
def Obligations.FragmentationIndependence : Prop :=
  (∀ (cs ds : List (List Byte)) (s : State), s.linkState = .connected → s.inv = true →
    cs.flatten = ds.flatten → noOverflow cs s = true → noOverflow ds s = true →
    runChunks cs s = runChunks ds s) ∧
  ∃ s t u : State, s.linkState = .connected ∧ s.inv = true ∧ s.cfg.rxCap = 8 ∧
    runChunks [[0xAA], [0x00], [0x00], [0x55], [0xAA], [0x00], [0x00], [0x55], [0xAA], [0x00], [0x00],
      [0x55]] s = .next t ∧
    runChunks [[0xAA, 0x00, 0x00, 0x55, 0xAA, 0x00, 0x00, 0x55, 0xAA, 0x00, 0x00, 0x55]] s = .next u ∧
    tapFrames (newItems s t) = [(0x00, []), (0x00, []), (0x00, [])] ∧ tapFrames (newItems s u) = []

/-- R235: with `RX_CAP` at least `258 + CHUNK_MAX`, no sequence of well-formed chunks overflows. -/
def Obligations.LargeBufferNeverOverflows : Prop :=
  ∀ (cs : List (List Byte)) (s : State), s.inv = true → 258 + s.cfg.chunkMax ≤ s.cfg.rxCap →
    (∀ c ∈ cs, c.length ≤ s.cfg.chunkMax) → noOverflow cs s = true

/-- R132 (iii): in a stream of frames in which SOF stands only at frame starts, one corrupted byte at
position `c` loses no frame that starts at `c + 259` or later, however the stream is chunked, as long as
no overflow clear fires. -/
def Obligations.OneCorruptedByteLosesABoundedStretch : Prop :=
  ∀ (s : State) (lead tail : List (Byte × List Byte)) (c : Nat) (b : Byte) (cs : List (List Byte)),
    s.linkState = .connected → s.cfg.wf = true → s.rxbuf = [] →
    (∀ f ∈ lead ++ tail, sofOnlyAtStart s.cfg f = true) →
    c + 259 ≤ (frameStream s.cfg lead).length →
    cs.flatten = (frameStream s.cfg (lead ++ tail)).set c b → noOverflow cs s = true →
    ∃ t before, runChunks cs s = .next t ∧ tapFrames (newItems s t) = before ++ tail

/-! ## Link Supervisor -/

/-- R160: CONNECT_REQ, with its event word. -/
def Obligations.ConnectReqStartsAnAttemptOnlyWhenDisconnected : Prop :=
  ∀ s : State,
    (∀ rest, decodeEvent s.cfg (0x01 :: rest) = .ok (.connectReq, rest)) ∧
    (s.linkState = .disconnected → exec .connectReq s = .next { s with
      linkState := .connecting
      out := s.out ++ [.tpc .connect, .status false .connecting .connectRequested] }) ∧
    (s.linkState ≠ .disconnected → exec .connectReq s = .next s)

/-- R161: DISCONNECT_REQ, with its event word, and the later TP_DOWN of the close ignored in
DISCONNECTED. -/
def Obligations.DisconnectReqClosesWhatIsOpen : Prop :=
  ∀ s : State,
    (∀ rest, decodeEvent s.cfg (0x02 :: rest) = .ok (.disconnectReq, rest)) ∧
    (s.linkState = .connected ∨ s.linkState = .connecting → exec .disconnectReq s = .next { s with
      linkState := .disconnected
      out := s.out ++ [.tpc .disconnect, .status false .disconnected .userDisconnect] }) ∧
    (s.linkState = .reconnecting → exec .disconnectReq s = .next { s with
      linkState := .disconnected
      out := s.out ++ [.status false .disconnected .userDisconnect] }) ∧
    (s.linkState = .disconnected → exec .disconnectReq s = .next s ∧ exec .tpDown s = .next s)

/-- R162, R163, R241: TP_UP, with its event word; entry into CONNECTED clears the buffer, the misses and
the heartbeat phase, and sends no heartbeat. -/
def Obligations.TpUpEntersConnectedFromConnectingOnly : Prop :=
  ∀ s : State,
    (∀ rest, decodeEvent s.cfg (0x03 :: rest) = .ok (.tpUp, rest)) ∧
    (s.linkState = .connecting → exec .tpUp s = .next { s with
      linkState := .connected
      rxbuf := []
      missCnt := 0
      hbDiv := 0
      out := s.out ++ [.status true .connected .connected] }) ∧
    (s.linkState ≠ .connecting → exec .tpUp s = .next s)

/-- R164, R165: TP_DOWN, with its event word: a transport loss or connect failure restarts the retry timer
and keeps the buffer. -/
def Obligations.TpDownEntersReconnecting : Prop :=
  ∀ s : State,
    (∀ rest, decodeEvent s.cfg (0x04 :: rest) = .ok (.tpDown, rest)) ∧
    (s.linkState = .connected → exec .tpDown s = .next { s with
      linkState := .reconnecting
      rtDiv := 0
      out := s.out ++ [.status false .reconnecting .transportLost] }) ∧
    (s.linkState = .connecting → exec .tpDown s = .next { s with
      linkState := .reconnecting
      rtDiv := 0
      out := s.out ++ [.status false .reconnecting .connectFailed] }) ∧
    (s.linkState = .disconnected ∨ s.linkState = .reconnecting → exec .tpDown s = .next s)

/-- R169, R170, R171, R172: TICK, with its event word, in every link state and on every outcome of its
two comparisons. -/
def Obligations.TickAdvancesTheRunningTimer : Prop :=
  ∀ s : State,
    (∀ rest, decodeEvent s.cfg (0x05 :: rest) = .ok (.tick, rest)) ∧
    (s.linkState = .disconnected ∨ s.linkState = .connecting → exec .tick s = .next s) ∧
    (s.linkState = .connected → s.hbDiv + 1 ≠ s.cfg.hbPeriod →
      exec .tick s = .next { s with hbDiv := s.hbDiv + 1 }) ∧
    (s.linkState = .connected → s.hbDiv + 1 = s.cfg.hbPeriod →
      s.missCnt + 1 ≤ s.cfg.hbMissLimit → exec .tick s = .next { s with
        hbDiv := 0
        missCnt := s.missCnt + 1
        out := s.out ++ [.tx [s.cfg.sof, s.cfg.kindHeartbeat, 0x00, s.cfg.eof]] }) ∧
    (s.linkState = .connected → s.hbDiv + 1 = s.cfg.hbPeriod →
      s.cfg.hbMissLimit < s.missCnt + 1 → exec .tick s = .next { s with
        linkState := .reconnecting
        hbDiv := 0
        missCnt := s.missCnt + 1
        rtDiv := 0
        out := s.out ++ [.tpc .abort, .status false .reconnecting .heartbeatTimeout] }) ∧
    (s.linkState = .reconnecting → s.rtDiv + 1 ≠ s.cfg.retryPeriod →
      exec .tick s = .next { s with rtDiv := s.rtDiv + 1 }) ∧
    (s.linkState = .reconnecting → s.rtDiv + 1 = s.cfg.retryPeriod → exec .tick s = .next { s with
      linkState := .connecting
      rtDiv := 0
      out := s.out ++ [.tpc .connect, .status false .connecting .retry] })

/-- R167, R175, R176: every change of the link state is a row of the transition relation, with that row's
transport command and then its one STATUS item as the event's whole output; an event that does not
change the link state emits neither. -/
def Obligations.LinkStateChangesOnlyByTheTransitionTable : Prop :=
  ∀ (i : Instr) (s t : State), exec i s = .next t →
    (t.linkState ≠ s.linkState → ∃ r ∈ transitionTable, r.source = s.linkState ∧ r.event = i ∧
      r.target = t.linkState ∧ newItems s t = r.items) ∧
    (t.linkState = s.linkState →
      (∀ c, OutItem.tpc c ∉ newItems s t) ∧ ∀ b l r, OutItem.status b l r ∉ newItems s t)

/-- R168: after a user disconnect the link stays DISCONNECTED and no transport command is issued until the
next CONNECT_REQ, whatever other events come. -/
def Obligations.UserDisconnectSuppressesReconnect : Prop :=
  ∀ (is : List Instr) (s u t : State), exec .disconnectReq s = .next u → Instr.connectReq ∉ is →
    runEvents is u = .next t →
    t.linkState = .disconnected ∧ ∀ c, OutItem.tpc c ∉ newItems u t

/-- R173: the timeout timing law. From CONNECTED with `miss_cnt` 0 and phase `h0`, as long as no Heartbeat
is dispatched, no TP_DOWN and no DISCONNECT_REQ comes, whatever other events come between the ticks:
before tick `N = (HB_PERIOD − h0) + HB_PERIOD · HB_MISS_LIMIT` the block stays CONNECTED; the tick that
follows `k < N` ticks emits a Heartbeat exactly if `h0 + k + 1` is a multiple of `HB_PERIOD` and
`k + 1 < N`; tick `N` takes the timeout transition. -/
def Obligations.HeartbeatTimeoutComesAtItsTick : Prop :=
  ∀ (is : List Instr) (s t : State), s.linkState = .connected → s.missCnt = 0 →
    s.hbDiv < s.cfg.hbPeriod → (∀ i ∈ is, i.isEvent = true) → Instr.tpDown ∉ is →
    Instr.disconnectReq ∉ is → runEvents is s = .next t →
    (∀ f ∈ tapFrames (newItems s t), classifyFrame s.cfg f.1 f.2 ≠ .heartbeat) →
    tickCount is < (s.cfg.hbPeriod - s.hbDiv) + s.cfg.hbPeriod * s.cfg.hbMissLimit →
    t.linkState = .connected ∧
    ∃ u, exec .tick t = .next u ∧
      (tickCount is + 1 = (s.cfg.hbPeriod - s.hbDiv) + s.cfg.hbPeriod * s.cfg.hbMissLimit →
        u.linkState = .reconnecting ∧
        u.out = t.out ++ [.tpc .abort, .status false .reconnecting .heartbeatTimeout]) ∧
      (tickCount is + 1 < (s.cfg.hbPeriod - s.hbDiv) + s.cfg.hbPeriod * s.cfg.hbMissLimit →
        u.linkState = .connected ∧
        u.out = t.out ++ (if (s.hbDiv + tickCount is + 1) % s.cfg.hbPeriod = 0 then
          [.tx [s.cfg.sof, s.cfg.kindHeartbeat, 0x00, s.cfg.eof]] else []))

/-- R174: the retry timing law. -/
def Obligations.RetryComesAtItsTick : Prop :=
  ∀ (k : Nat) (s : State), s.linkState = .reconnecting → s.rtDiv = 0 → 1 ≤ s.cfg.retryPeriod →
    (k < s.cfg.retryPeriod →
      runEvents (List.replicate k .tick) s = .next { s with rtDiv := k }) ∧
    (s.cfg.retryPeriod ≤ k → runEvents (List.replicate k .tick) s = .next { s with
      linkState := .connecting
      out := s.out ++ [.tpc .connect, .status false .connecting .retry] })

/-- R240: the order of a Heartbeat and of the tick that would exceed the limit decides. `HB_MISS_LIMIT` at
least 1 is assumed; with 0 every heartbeat tick exceeds it (R171; log entry 17). -/
def Obligations.TickAgainstHeartbeatRace : Prop :=
  ∀ s : State, s.linkState = .connected → s.rxbuf = [] → s.missCnt = s.cfg.hbMissLimit →
    s.hbDiv + 1 = s.cfg.hbPeriod → 1 ≤ s.cfg.hbMissLimit → 4 ≤ s.cfg.rxCap → s.cfg.wf = true →
    s.cfg.framesTabled = true →
    (∃ t, runEvents [.rxChunk [s.cfg.sof, 0x00, 0x00, s.cfg.eof], .tick] s = .next t ∧
      t.linkState = .connected ∧ t.missCnt = 1) ∧
    ∃ t, runEvents [.tick, .rxChunk [s.cfg.sof, 0x00, 0x00, s.cfg.eof]] s = .next t ∧
      t.linkState = .reconnecting ∧ t.out = s.out ++
        [.tpc .abort, .status false .reconnecting .heartbeatTimeout]

/-! ## The step, the port, and the whole machine -/

/-- R12, R208, R216, R87: what a step does with what waits at the port. Holding an idle block's state is
DEDUCED (log entry 6). -/
def Obligations.StepRunsTheEventAtThePort : Prop :=
  ∀ s : State,
    (∀ (i : Instr) (rest : List Byte), decodeEvent s.cfg s.port = .ok (i, rest) →
      step s = exec i { s with port := rest }) ∧
    (s.port = [] → step s = .next s)

/-- R87: an event word with a reserved opcode, an RX_CHUNK longer than `CHUNK_MAX`, and an event word cut
short are refused. -/
def Obligations.MalformedEventWordsAreRefused : Prop :=
  (∀ (op : Byte) (s : State), exec (.reservedEv op) s = .refused (.reservedOpcode op)) ∧
  (∀ (op : Byte) (rest : List Byte) (s : State), s.port = op :: rest →
    (op.toNat = 0 ∨ (0x06 ≤ op.toNat ∧ op.toNat ≤ 0x0F) ∨ (0x11 ≤ op.toNat ∧ op.toNat ≤ 0x1F) ∨
      0x24 ≤ op.toNat) → step s = .refused (.reservedOpcode op)) ∧
  (∀ (n0 n1 : Byte) (rest : List Byte) (s : State), s.port = 0x10 :: n0 :: n1 :: rest →
    s.cfg.chunkMax < n0.toNat + 256 * n1.toNat →
    (∃ r, step s = .refused r) ∧
    (n0.toNat + 256 * n1.toNat ≤ rest.length →
      step s = .refused (.chunkTooLong (n0.toNat + 256 * n1.toNat)))) ∧
  ∀ (i : Instr) (n : Nat) (s : State), i.isEvent = true → i.wf s.cfg = true →
    s.port = (encodeEvent i).take n → 1 ≤ n → n < (encodeEvent i).length →
    step s = .refused .eventWordCutShort

/-- R201, R210, R216: no event but a reserved opcode stops the block: every other instruction completes in
every state; a step never faults, and refuses only a malformed event word. `MIN_FRAME` is at least 3, so
that no pass reads past the buffer (log entry 19). -/
def Obligations.NoFaultStopsTheBlock : Prop :=
  (∀ (i : Instr) (s : State), 3 ≤ s.cfg.minFrame → (∀ op, i ≠ .reservedEv op) →
    ∃ t, exec i s = .next t) ∧
  (∀ (s : State) (f : Fault), 3 ≤ s.cfg.minFrame → step s ≠ .fault f) ∧
  ∀ (s : State) (r : Refusal), step s = .refused r →
    (∃ op, r = .reservedOpcode op) ∨ (∃ n, r = .chunkTooLong n) ∨ r = .eventWordCutShort

/-- R36: every step keeps the invariants I1 to I5 and the sticky bit I6, and with them at most 258 bytes
are left over; the reset state of every configuration in range satisfies them. -/
def Obligations.StepKeepsTheInvariants : Prop :=
  (∀ c : Config, c.wf = true → (State.resetWith c).inv = true) ∧
  ∀ s t : State, s.inv = true → step s = .next t →
    t.inv = true ∧ (s.faultPtl = true → t.faultPtl = true) ∧ t.rxbuf.length ≤ 258

/-- R20, R11, R60: each field has its writers. No event writes the parameters or the port, OUT only
grows, and the buffer, byte by byte, the counters, the link state and the fault bit change only by the
events the rules name. -/
def Obligations.EachFieldHasItsWriters : Prop :=
  ∀ (i : Instr) (s t : State), exec i s = .next t →
    t.cfg = s.cfg ∧ t.port = s.port ∧ (∃ items, t.out = s.out ++ items) ∧
    ((∀ d, i ≠ .rxChunk d) → i ≠ .tpUp → ∀ n, t.readByte n = s.readByte n) ∧
    (i ≠ .tick → i ≠ .tpUp → t.hbDiv = s.hbDiv) ∧
    (i ≠ .tick → i ≠ .tpDown → t.rtDiv = s.rtDiv) ∧
    (i ≠ .tick → i ≠ .tpUp → i ≠ .heartbeat → (∀ d, i ≠ .rxChunk d) → t.missCnt = s.missCnt) ∧
    (i ≠ .connectReq → i ≠ .disconnectReq → i ≠ .tpUp → i ≠ .tpDown → i ≠ .tick →
      t.linkState = s.linkState) ∧
    ((∀ k p, i ≠ .txRaw k p) → (∀ f l r, i ≠ .txMove f l r) → (∀ p q m, i ≠ .txControl p q m) →
      (∀ x y, i ≠ .txTarget x y) → t.faultPtl = s.faultPtl)

/-- R63, R105, R111: every TX item an event emits is one whole frame of `encode`, sent in CONNECTED. -/
def Obligations.EveryTxItemIsOneEncodedFrame : Prop :=
  ∀ (i : Instr) (s t : State) (w : List Byte), i.isEvent = true → exec i s = .next t →
    OutItem.tx w ∈ newItems s t →
    s.linkState = .connected ∧ ∃ kind payload, encodeFrame s.cfg kind payload = .ok w

/-- R209, R200: an event detects at most one PayloadTooLarge and at most one capacity fault, and an event
that detects a fault completes. Each class detected shows as R200's table says, and only then: framing
faults as the bytes that neither stay nor leave in a frame, one each, and one more for the wait on a
truncated frame (the count of log entry 18); a programming error as the ERR item, with `fault_ptl` set; a
capacity fault as the overflow clear, whose whole effect is the empty buffer; a transport and a liveness
fault as the STATUS item with its reason; each semantic fault of an event as one frame on the tap that
dispatch drops. -/
def Obligations.OneEventDetectsAtMostOneOfEachSingleFault : Prop :=
  ∀ (i : Instr) (s : State), 3 ≤ s.cfg.minFrame →
    (detectedFaults i s).count .programming ≤ 1 ∧ (detectedFaults i s).count .capacity ≤ 1 ∧
    (detectedFaults i s ≠ [] → ∃ t, exec i s = .next t) ∧
    ∀ t, exec i s = .next t →
      (.programming ∈ detectedFaults i s ↔ OutItem.err .payloadTooLarge ∈ newItems s t) ∧
      (.programming ∈ detectedFaults i s → t.faultPtl = true) ∧
      (.capacity ∈ detectedFaults i s ↔
        ∃ d, i = .rxChunk d ∧ s.linkState = .connected ∧ s.cfg.rxCap < s.rxbuf.length + d.length) ∧
      (.capacity ∈ detectedFaults i s → t = { s with rxbuf := [] }) ∧
      (.transport ∈ detectedFaults i s ↔
        OutItem.status false .reconnecting .transportLost ∈ newItems s t ∨
        OutItem.status false .reconnecting .connectFailed ∈ newItems s t) ∧
      (.liveness ∈ detectedFaults i s ↔
        OutItem.status false .reconnecting .heartbeatTimeout ∈ newItems s t) ∧
      (i.isEvent = true → (detectedFaults i s).count .semantic =
        (tapFrames (newItems s t)).countP (fun f => isSemanticFault s.cfg f.1 f.2)) ∧
      (.framing ∈ detectedFaults i s → ∃ d, i = .rxChunk d ∧ s.linkState = .connected ∧
        s.rxbuf.length + d.length ≤ s.cfg.rxCap) ∧
      ∀ d, i = .rxChunk d → s.linkState = .connected → s.rxbuf.length + d.length ≤ s.cfg.rxCap →
        s.rxbuf.length + d.length + (if s.cfg.minFrame ≤ t.rxbuf.length then 1 else 0) =
          (detectedFaults i s).count .framing +
            (frameStream s.cfg (tapFrames (newItems s t))).length + t.rxbuf.length

/-! ## The environment

The transport's own state and its moves are the model's reading of R243 (log entry 16), and how two
endpoints come into one session is its choice (log entry 21): each of these four statements rests on
them. -/

/-- R243 E1, E2, E3, U20 (log entry 16): the moves that would break a duty are refused: a TP_UP without an
open attempt, a TP_DOWN with nothing to report, a delivery or an arrival without a current session, and a
delivery of more bytes than the ingress holds or than `CHUNK_MAX`. A TP_UP uses its attempt up, a TP_DOWN
uses up all there is to report, and after a DISCONNECT or an ABORT there is neither TP_UP nor delivery. -/
def Obligations.EnvironmentHasNoMoveThatBreaksADuty : Prop :=
  (∀ (e : Endpoint) (n : Nat) (w : List Byte),
    (e.transport.attempt = false → e.move .tpUp = .refused (.environmentDuty 1)) ∧
    (e.transport.attempt = false → e.transport.session = false → e.transport.closing = false →
      e.move .tpDown = .refused (.environmentDuty 1)) ∧
    (e.transport.session = false → e.move (.deliver n) = .refused (.environmentDuty 2)) ∧
    (e.transport.session = false → e.move (.arrive w) = .refused (.environmentDuty 3)) ∧
    (e.transport.session = true → e.transport.ingress.length < n ∨ e.core.cfg.chunkMax < n →
      e.move (.deliver n) = .refused (.environmentDuty 3))) ∧
  (∀ e e' : Endpoint, e.move .tpUp = .next e' → e'.move .tpUp = .refused (.environmentDuty 1)) ∧
  (∀ e e' : Endpoint, e.move .tpDown = .next e' → e'.move .tpDown = .refused (.environmentDuty 1)) ∧
  ∀ (i : Instr) (e e' : Endpoint), e.take i = .next e' →
    OutItem.tpc .disconnect ∈ newItems e.core e'.core ∨ OutItem.tpc .abort ∈ newItems e.core e'.core →
    e'.move .tpUp = .refused (.environmentDuty 1) ∧
    ∀ n, e'.move (.deliver n) = .refused (.environmentDuty 2)

/-- R243, R34, R64 (log entries 16 and 21): with an environment that keeps its duties, the transport has an
unanswered attempt exactly in CONNECTING and a current session exactly in CONNECTED, after every move, at
a single endpoint and at both ends of a pair; and in a pair only bytes in flight count to a session that
was left. -/
def Obligations.TransportAndSupervisorStayInAgreement : Prop :=
  (∀ c : Config, (Endpoint.reset c).agrees = true) ∧
  (∀ (ms : List Move) (e e' : Endpoint), e.agrees = true → e.run ms = .next e' → e'.agrees = true) ∧
  (∀ cl cr : Config, (Pair.reset cl cr).agrees = true) ∧
  ∀ (ms : List PairMove) (p p' : Pair), p.agrees = true → p.run ms = .next p' → p'.agrees = true

/-- R59, E2, E3, R64 (log entries 16 and 21): the ingress delivers its bytes in order, without loss or
duplication, and every byte delivered in an agreeing environment reaches the reassembler. The wire of a
pair can hand on to an end with a current session any number of the bytes in flight to it, exactly the
first ones, and changes nothing else; it hands on no more than is in flight, and none where there is no
session. While an end has no session the wire may lose, from the front, bytes that were in flight when it
left its last one; it loses no others, and none in a session. In either direction. -/
def Obligations.IngressAndWireLoseNothing : Prop :=
  (∀ (n : Nat) (e e' : Endpoint), e.agrees = true → e.move (.deliver n) = .next e' →
    ∃ d t, e.transport.ingress = d ++ e'.transport.ingress ∧ d.length = n ∧
      e.core.linkState = .connected ∧ exec (.rxChunk d) e.core = .next t ∧ e'.core = t) ∧
  (∀ (n : Nat) (p : Pair),
    (p.right.transport.session = true → n ≤ p.toRight.bytes.length →
      p.move (.carryRight n) = .next { p with
        right := { p.right with transport := { p.right.transport with
          ingress := p.right.transport.ingress ++ p.toRight.bytes.take n } }
        toRight := { bytes := p.toRight.bytes.drop n, stale := p.toRight.stale - n } }) ∧
    (p.right.transport.session = false ∨ p.toRight.bytes.length < n →
      p.move (.carryRight n) = .refused (.environmentDuty 3)) ∧
    (p.right.transport.session = false → n ≤ p.toRight.stale → p.move (.loseRight n) = .next { p with
      toRight := { bytes := p.toRight.bytes.drop n, stale := p.toRight.stale - n } }) ∧
    (p.right.transport.session = true ∨ p.toRight.stale < n →
      p.move (.loseRight n) = .refused (.environmentDuty 3))) ∧
  (∀ (n : Nat) (p : Pair),
    (p.left.transport.session = true → n ≤ p.toLeft.bytes.length →
      p.move (.carryLeft n) = .next { p with
        left := { p.left with transport := { p.left.transport with
          ingress := p.left.transport.ingress ++ p.toLeft.bytes.take n } }
        toLeft := { bytes := p.toLeft.bytes.drop n, stale := p.toLeft.stale - n } }) ∧
    (p.left.transport.session = false ∨ p.toLeft.bytes.length < n →
      p.move (.carryLeft n) = .refused (.environmentDuty 3)) ∧
    (p.left.transport.session = false → n ≤ p.toLeft.stale → p.move (.loseLeft n) = .next { p with
      toLeft := { bytes := p.toLeft.bytes.drop n, stale := p.toLeft.stale - n } }) ∧
    (p.left.transport.session = true ∨ p.toLeft.stale < n →
      p.move (.loseLeft n) = .refused (.environmentDuty 3)))

/-- R63, R64, E3 (log entries 16 and 21), for the left and for the right end alike. A pair holds up no move
of an end but an arrival of bytes, which it takes from the peer only. A move changes that end as it would
alone, adds to the end of its stream exactly the bytes of its TX items, whole and in order, and touches
neither the other end nor the bytes in flight to itself; where it leaves a session, those are the bytes that
count to that session. So over any run the bytes in flight are the bytes of all TX items, in order, but the
first ones, which have been carried or lost. -/
def Obligations.PairStreamsCarryTheTxItems : Prop :=
  (∀ (m : Move) (p : Pair), (∀ w, m ≠ .arrive w) →
    (∀ e, p.left.move m = .next e → ∃ p', p.move (.left m) = .next p') ∧
    ∀ e, p.right.move m = .next e → ∃ p', p.move (.right m) = .next p') ∧
  (∀ (w : List Byte) (p : Pair), p.move (.left (.arrive w)) = .refused (.environmentDuty 3) ∧
    p.move (.right (.arrive w)) = .refused (.environmentDuty 3)) ∧
  (∀ (m : Move) (p p' : Pair), p.move (.left m) = .next p' →
    p.left.move m = .next p'.left ∧ p'.right = p.right ∧
    p'.toRight = { p.toRight with
      bytes := p.toRight.bytes ++ txBytes (newItems p.left.core p'.left.core) } ∧
    p'.toLeft.bytes = p.toLeft.bytes ∧
    (p.left.transport.session = true → p'.left.transport.session = false →
      p'.toLeft.stale = p.toLeft.bytes.length) ∧
    (p.left.transport.session = false ∨ p'.left.transport.session = true →
      p'.toLeft.stale = p.toLeft.stale)) ∧
  (∀ (m : Move) (p p' : Pair), p.move (.right m) = .next p' →
    p.right.move m = .next p'.right ∧ p'.left = p.left ∧
    p'.toLeft = { p.toLeft with
      bytes := p.toLeft.bytes ++ txBytes (newItems p.right.core p'.right.core) } ∧
    p'.toRight.bytes = p.toRight.bytes ∧
    (p.right.transport.session = true → p'.right.transport.session = false →
      p'.toRight.stale = p.toRight.bytes.length) ∧
    (p.right.transport.session = false ∨ p'.right.transport.session = true →
      p'.toRight.stale = p.toRight.stale)) ∧
  (∀ (ms : List PairMove) (p p' : Pair), p.run ms = .next p' → p'.toRight.bytes =
    (p.toRight.bytes ++ txBytes (newItems p.left.core p'.left.core)).drop (takenToRight ms)) ∧
  ∀ (ms : List PairMove) (p p' : Pair), p.run ms = .next p' → p'.toLeft.bytes =
    (p.toLeft.bytes ++ txBytes (newItems p.right.core p'.right.core)).drop (takenToLeft ms)
end

