-- ==== Sys2Proof/Laws/Operands.lean ====
section
/-! SUPPORT. The operand forms are inverse to one another (R79, R80, R86). -/

namespace Sys2Proof.Machine

@[simp] theorem i16OfBytes_lo_hi (v : I16) : i16OfBytes (loByte v) (hiByte v) = v := by
  unfold i16OfBytes loByte hiByte
  ext i hi
  simp
  grind

@[simp] theorem loByte_i16OfBytes (lo hi : Byte) : loByte (i16OfBytes lo hi) = lo := by
  unfold i16OfBytes loByte
  ext i hi
  simp
  grind

@[simp] theorem hiByte_i16OfBytes (lo hi : Byte) : hiByte (i16OfBytes lo hi) = hi := by
  unfold i16OfBytes hiByte
  ext i hi'
  have h := BitVec.getLsbD_append (x := hi) (y := lo) (i := 8 + i)
  simpa [BitVec.getLsbD_eq_getElem hi'] using h

@[simp] theorem wrI16_i16OfBytes (lo hi : Byte) : wrI16 (i16OfBytes lo hi) = [lo, hi] := by
  simp [wrI16]

@[simp] theorem wrI16_length (v : I16) : (wrI16 v).length = 2 := rfl

@[simp] theorem readFlag_flagByte (f : Bool) : readFlag (flagByte f) = f := by cases f <;> rfl

/-- The 16-bit length field holds every length of an RX_CHUNK (R86). -/
theorem len16_lenLo_lenHi (n : Nat) (h : n ≤ 65535) : len16 (lenLo n) (lenHi n) = n := by
  simp only [len16, lenLo, lenHi, i16OfBytes_lo_hi, BitVec.toNat_ofNat]
  omega

/-- The one-byte length field holds every payload length of a frame (R73). -/
theorem lenByte_toNat (n : Nat) (h : n ≤ 255) : (BitVec.ofNat 8 n).toNat = n := by
  simp only [BitVec.toNat_ofNat]
  omega

@[simp] theorem evOp_ofByte_code (o : EvOp) : EvOp.ofByte o.code = some o := by cases o <;> decide

/-- A byte that names a known kind is that kind's number (R74). -/
theorem kindOf_eq_some {c : Config} {b : Byte} {k : FrameKind} (h : c.kindOf b = some k) :
    b = c.kindCode k := by
  unfold Config.kindOf at h
  repeat' split at h
  all_goals first
    | (cases h; assumption)
    | cases h

/-- The Heartbeat is the first case of dispatch (R140). -/
@[simp] theorem kindOf_kindHeartbeat (c : Config) : c.kindOf c.kindHeartbeat = some .heartbeat := by
  simp [Config.kindOf]

/-- What the tabled kinds and lengths are (R74). -/
theorem framesTabled_iff (c : Config) : c.framesTabled = true ↔
    c.kindHeartbeat = 0x00 ∧ c.kindMove = 0x01 ∧ c.kindControl = 0x02 ∧ c.kindTarget = 0x03 ∧
    c.lenHeartbeat = 0 ∧ c.lenMove = 6 ∧ c.lenControl = 4 ∧ c.lenTarget = 4 := by
  simp [Config.framesTabled, and_assoc]

/-- What a configuration in range has, for the reassembler (R7). -/
theorem wf_minFrame {c : Config} (h : c.wf = true) : c.minFrame = 4 := by
  simp only [Config.wf, Bool.and_eq_true, decide_eq_true_eq] at h
  omega

/-- A byte that names an event is that event's opcode (R86). -/
theorem evOp_ofByte_eq_some {b : Byte} {o : EvOp} (h : EvOp.ofByte b = some o) : b = o.code := by
  unfold EvOp.ofByte at h
  repeat' split at h
  all_goals first
    | (cases h; assumption)
    | cases h

end Sys2Proof.Machine
end

