-- ==== Sys2Proof/Laws/Decode.lean ====
section
/-! SUPPORT. The opcode table's header rows taken apart by bytes (R71), and the classification of a frame
by its exact payload length (R74). -/

namespace Sys2Proof.Machine

/-- Masking a header word masks its three bytes. -/
theorem headerWord_and (a b c x y z : Byte) :
    headerWord a b c &&& headerWord x y z = headerWord (a &&& x) (b &&& y) (c &&& z) := by
  have h : ((a ++ b ++ c : BitVec (8 + 8 + 8)) &&& (x ++ y ++ z : BitVec (8 + 8 + 8))) =
      ((a &&& x) ++ (b &&& y) ++ (c &&& z) : BitVec (8 + 8 + 8)) := by
    apply BitVec.eq_of_getLsbD_eq
    intro i hi
    simp only [BitVec.getLsbD_and, BitVec.getLsbD_append]
    split
    · rfl
    · split <;> rfl
  exact h

/-- A header word is its three bytes. -/
theorem headerWord_inj {a b c x y z : Byte} :
    headerWord a b c = headerWord x y z ↔ a = x ∧ b = y ∧ c = z := by
  constructor
  · intro h
    have h' : (a ++ b ++ c : BitVec (8 + 8 + 8)) = (x ++ y ++ z : BitVec (8 + 8 + 8)) := h
    refine ⟨?_, ?_, ?_⟩
    all_goals
      apply BitVec.eq_of_getLsbD_eq
      intro i hi
    · have hh := congrArg (fun v => BitVec.getLsbD v (16 + i)) h'
      simp only [BitVec.getLsbD_append] at hh
      simpa [show ¬ 16 + i < 8 by omega, show ¬ 16 + i - 8 < 8 by omega,
        show 16 + i - 8 - 8 = i by omega] using hh
    · have hh := congrArg (fun v => BitVec.getLsbD v (8 + i)) h'
      simp only [BitVec.getLsbD_append] at hh
      simpa [show ¬ 8 + i < 8 by omega, hi] using hh
    · have hh := congrArg (fun v => BitVec.getLsbD v i) h'
      simp only [BitVec.getLsbD_append] at hh
      simpa [hi] using hh
  · rintro ⟨rfl, rfl, rfl⟩
    rfl

/-- A header row whose pattern and mask are written by bytes matches byte by byte. -/
theorem frameRow_fits (m : String) (p0 p1 p2 q0 q1 q2 a b c : Byte) (pr : Nat) :
    FrameRow.fits ⟨m, headerWord p0 p1 p2, headerWord q0 q1 q2, pr⟩ (headerWord a b c) =
      ((a &&& q0) == p0 && ((b &&& q1) == p1 && (c &&& q2) == p2)) := by
  rw [Bool.eq_iff_iff]
  simp only [FrameRow.fits, headerWord_and, beq_iff_eq, headerWord_inj, Bool.and_eq_true]

/-- A frame of a kind that is not known is of an unassigned kind (R81). -/
theorem classifyFrame_unassigned (c : Config) (kind : Byte) (payload : List Byte)
    (h : c.kindOf kind = none) :
    classifyFrame c kind payload = .unassignedKind kind payload := by
  simp [classifyFrame, h]

/-- A known kind with the wrong payload length is malformed (R82). -/
theorem classifyFrame_malformed (c : Config) (kind : Byte) (payload : List Byte) (k : FrameKind)
    (h : c.kindOf kind = some k) (hl : payload.length ≠ c.kindLen k) :
    classifyFrame c kind payload = .malformedKnownKind kind payload := by
  simp [classifyFrame, h, hl]

/-- Payloads of the two exact lengths above 0, taken apart (R76 to R78). -/
theorem length_six {p : List Byte} (h : p.length = 6) :
    ∃ a b c d e f, p = [a, b, c, d, e, f] := by
  match p, h with
  | [a, b, c, d, e, f], _ => exact ⟨a, b, c, d, e, f, rfl⟩

theorem length_four {p : List Byte} (h : p.length = 4) : ∃ a b c d, p = [a, b, c, d] := by
  match p, h with
  | [a, b, c, d], _ => exact ⟨a, b, c, d, rfl⟩

end Sys2Proof.Machine
end

