-- ==== Sys2Proof/Laws/Environment.lean ====
section
/-! SUPPORT. What the operations on a pair of endpoints do: seen from the other end, and one lemma
for each that says all it can do. -/

namespace Sys2Proof.Machine

@[simp] theorem Pair.mirror_mirror (p : Pair) : p.mirror.mirror = p := rfl
@[simp] theorem Pair.mirror_left (p : Pair) : p.mirror.left = p.right := rfl
@[simp] theorem Pair.mirror_right (p : Pair) : p.mirror.right = p.left := rfl
@[simp] theorem Pair.mirror_toRight (p : Pair) : p.mirror.toRight = p.toLeft := rfl
@[simp] theorem Pair.mirror_toLeft (p : Pair) : p.mirror.toLeft = p.toRight := rfl

@[simp] theorem Wire.write_bytes (b : List Byte) (w : Wire) : (w.write b).bytes = w.bytes ++ b := rfl
@[simp] theorem Wire.write_stale (b : List Byte) (w : Wire) : (w.write b).stale = w.stale := rfl
@[simp] theorem Wire.drop_bytes (n : Nat) (w : Wire) : (w.drop n).bytes = w.bytes.drop n := rfl
@[simp] theorem Wire.drop_stale (n : Nat) (w : Wire) : (w.drop n).stale = w.stale - n := rfl
@[simp] theorem Wire.leave_bytes (w : Wire) : w.leave.bytes = w.bytes := rfl
@[simp] theorem Wire.leave_stale (w : Wire) : w.leave.stale = w.bytes.length := rfl

/-- An outcome seen from the other end is a next pair exactly when the outcome is. -/
theorem mirrorOutcome_eq_next {o : Host.Outcome Pair Fault Refusal} {p : Pair} :
    mirrorOutcome o = .next p ↔ o = .next p.mirror := by
  cases o with
  | next q =>
    exact ⟨fun h => by cases h; simp, fun h => by cases h; simp [mirrorOutcome]⟩
  | fault f => exact ⟨nofun, nofun⟩
  | refused r => exact ⟨nofun, nofun⟩

/-- All that a move of the left end can do to a pair. -/
theorem Pair.moveLeft_next {m : Move} {p p' : Pair} (h : p.moveLeft m = .next p') :
    m.isArrive = false ∧ p.left.move m = .next p'.left ∧ p'.right = p.right ∧
      p'.toRight = p.toRight.write (txBytes (newItems p.left.core p'.left.core)) ∧
      p'.toLeft = if p.left.transport.session && !p'.left.transport.session then p.toLeft.leave
        else p.toLeft := by
  unfold Pair.moveLeft at h
  split at h
  · cases h
  · rename_i ha
    split at h
    · rename_i e he
      cases h
      exact ⟨by simpa using ha, he, rfl, rfl, rfl⟩
    · cases h
    · cases h

/-- All that carrying bytes to the right end can do. -/
theorem Pair.carry_next {n : Nat} {p p' : Pair} (h : p.carry n = .next p') :
    n ≤ p.toRight.bytes.length ∧
      p.right.move (.arrive (p.toRight.bytes.take n)) = .next p'.right ∧
      p' = { p with right := p'.right, toRight := p.toRight.drop n } := by
  unfold Pair.carry at h
  split at h
  · rename_i hc
    split at h
    · rename_i e he
      cases h
      exact ⟨hc, he, rfl⟩
    · cases h
    · cases h
  · cases h

/-- All that losing bytes on the way to the right end can do. -/
theorem Pair.lose_next {n : Nat} {p p' : Pair} (h : p.lose n = .next p') :
    p.right.transport.session = false ∧ n ≤ p.toRight.stale ∧
      p' = { p with toRight := p.toRight.drop n } := by
  unfold Pair.lose at h
  split at h
  · rename_i hc
    cases h
    exact ⟨hc.1, hc.2, rfl⟩
  · cases h

end Sys2Proof.Machine
end

