-- ==== Sys2Proof/Laws/State.lean ====
section
/-! SUPPORT. One lemma per field for each update of the state (R10, R11, R202), and the shapes of the
shared operations that only compose them. -/

namespace Sys2Proof.Machine

@[simp] theorem State.emit_linkState (s : State) (o : OutItem) : (s.emit o).linkState = s.linkState := rfl
@[simp] theorem State.emit_missCnt (s : State) (o : OutItem) : (s.emit o).missCnt = s.missCnt := rfl
@[simp] theorem State.emit_hbDiv (s : State) (o : OutItem) : (s.emit o).hbDiv = s.hbDiv := rfl
@[simp] theorem State.emit_rtDiv (s : State) (o : OutItem) : (s.emit o).rtDiv = s.rtDiv := rfl
@[simp] theorem State.emit_rxbuf (s : State) (o : OutItem) : (s.emit o).rxbuf = s.rxbuf := rfl
@[simp] theorem State.emit_faultPtl (s : State) (o : OutItem) : (s.emit o).faultPtl = s.faultPtl := rfl
@[simp] theorem State.emit_out (s : State) (o : OutItem) : (s.emit o).out = s.out ++ [o] := rfl
@[simp] theorem State.emit_port (s : State) (o : OutItem) : (s.emit o).port = s.port := rfl
@[simp] theorem State.emit_cfg (s : State) (o : OutItem) : (s.emit o).cfg = s.cfg := rfl

@[simp] theorem State.bufAppend_linkState (s : State) (d : List Byte) : (s.bufAppend d).linkState = s.linkState := rfl
@[simp] theorem State.bufAppend_missCnt (s : State) (d : List Byte) : (s.bufAppend d).missCnt = s.missCnt := rfl
@[simp] theorem State.bufAppend_hbDiv (s : State) (d : List Byte) : (s.bufAppend d).hbDiv = s.hbDiv := rfl
@[simp] theorem State.bufAppend_rtDiv (s : State) (d : List Byte) : (s.bufAppend d).rtDiv = s.rtDiv := rfl
@[simp] theorem State.bufAppend_rxbuf (s : State) (d : List Byte) : (s.bufAppend d).rxbuf = s.rxbuf ++ d := rfl
@[simp] theorem State.bufAppend_faultPtl (s : State) (d : List Byte) : (s.bufAppend d).faultPtl = s.faultPtl := rfl
@[simp] theorem State.bufAppend_out (s : State) (d : List Byte) : (s.bufAppend d).out = s.out := rfl
@[simp] theorem State.bufAppend_port (s : State) (d : List Byte) : (s.bufAppend d).port = s.port := rfl
@[simp] theorem State.bufAppend_cfg (s : State) (d : List Byte) : (s.bufAppend d).cfg = s.cfg := rfl

@[simp] theorem State.bufDrop_linkState (s : State) (n : Nat) : (s.bufDrop n).linkState = s.linkState := rfl
@[simp] theorem State.bufDrop_missCnt (s : State) (n : Nat) : (s.bufDrop n).missCnt = s.missCnt := rfl
@[simp] theorem State.bufDrop_hbDiv (s : State) (n : Nat) : (s.bufDrop n).hbDiv = s.hbDiv := rfl
@[simp] theorem State.bufDrop_rtDiv (s : State) (n : Nat) : (s.bufDrop n).rtDiv = s.rtDiv := rfl
@[simp] theorem State.bufDrop_rxbuf (s : State) (n : Nat) : (s.bufDrop n).rxbuf = s.rxbuf.drop n := rfl
@[simp] theorem State.bufDrop_faultPtl (s : State) (n : Nat) : (s.bufDrop n).faultPtl = s.faultPtl := rfl
@[simp] theorem State.bufDrop_out (s : State) (n : Nat) : (s.bufDrop n).out = s.out := rfl
@[simp] theorem State.bufDrop_port (s : State) (n : Nat) : (s.bufDrop n).port = s.port := rfl
@[simp] theorem State.bufDrop_cfg (s : State) (n : Nat) : (s.bufDrop n).cfg = s.cfg := rfl

@[simp] theorem State.bufClear_linkState (s : State) : (s.bufClear).linkState = s.linkState := rfl
@[simp] theorem State.bufClear_missCnt (s : State) : (s.bufClear).missCnt = s.missCnt := rfl
@[simp] theorem State.bufClear_hbDiv (s : State) : (s.bufClear).hbDiv = s.hbDiv := rfl
@[simp] theorem State.bufClear_rtDiv (s : State) : (s.bufClear).rtDiv = s.rtDiv := rfl
@[simp] theorem State.bufClear_rxbuf (s : State) : (s.bufClear).rxbuf = [] := rfl
@[simp] theorem State.bufClear_faultPtl (s : State) : (s.bufClear).faultPtl = s.faultPtl := rfl
@[simp] theorem State.bufClear_out (s : State) : (s.bufClear).out = s.out := rfl
@[simp] theorem State.bufClear_port (s : State) : (s.bufClear).port = s.port := rfl
@[simp] theorem State.bufClear_cfg (s : State) : (s.bufClear).cfg = s.cfg := rfl

@[simp] theorem State.raisePayloadTooLarge_linkState (s : State) : (s.raisePayloadTooLarge).linkState = s.linkState := rfl
@[simp] theorem State.raisePayloadTooLarge_missCnt (s : State) : (s.raisePayloadTooLarge).missCnt = s.missCnt := rfl
@[simp] theorem State.raisePayloadTooLarge_hbDiv (s : State) : (s.raisePayloadTooLarge).hbDiv = s.hbDiv := rfl
@[simp] theorem State.raisePayloadTooLarge_rtDiv (s : State) : (s.raisePayloadTooLarge).rtDiv = s.rtDiv := rfl
@[simp] theorem State.raisePayloadTooLarge_rxbuf (s : State) : (s.raisePayloadTooLarge).rxbuf = s.rxbuf := rfl
@[simp] theorem State.raisePayloadTooLarge_faultPtl (s : State) : (s.raisePayloadTooLarge).faultPtl = true := rfl
@[simp] theorem State.raisePayloadTooLarge_out (s : State) : (s.raisePayloadTooLarge).out = s.out ++ [.err .payloadTooLarge] := rfl
@[simp] theorem State.raisePayloadTooLarge_port (s : State) : (s.raisePayloadTooLarge).port = s.port := rfl
@[simp] theorem State.raisePayloadTooLarge_cfg (s : State) : (s.raisePayloadTooLarge).cfg = s.cfg := rfl

/-- A Heartbeat always encodes, so sending one appends its frame and does nothing else (R111). -/
theorem State.emitHeartbeat_eq (s : State) :
    s.emitHeartbeat = s.emit (.tx (frameBytes s.cfg s.cfg.kindHeartbeat [])) := by
  simp [State.emitHeartbeat, State.emitFrame, encodeFrame]

/-- A payload within `MAX_PAYLOAD` is sent as its frame (R100). -/
theorem State.emitFrame_ok (s : State) (k : Byte) (p : List Byte) (h : p.length ≤ s.cfg.maxPayload) :
    s.emitFrame k p = s.emit (.tx (frameBytes s.cfg k p)) := by
  simp [State.emitFrame, encodeFrame, Nat.not_lt.mpr h]

/-- The three things `TxSend` can do (R111). -/
theorem txSend_cases (k : Byte) (p : List Byte) (s : State) :
    (s.cfg.maxPayload < p.length ∧ txSend k p s = s.raisePayloadTooLarge) ∨
    (p.length ≤ s.cfg.maxPayload ∧ s.linkState ≠ .connected ∧ txSend k p s = s) ∨
    (p.length ≤ s.cfg.maxPayload ∧ s.linkState = .connected ∧
      txSend k p s = s.emit (.tx (frameBytes s.cfg k p))) := by
  unfold txSend
  split
  · exact .inl ⟨‹_›, rfl⟩
  · rename_i h
    have h' := Nat.not_lt.mp h
    split
    · exact .inr (.inl ⟨h', ‹_›, rfl⟩)
    · exact .inr (.inr ⟨h', not_not.mp ‹_›, s.emitFrame_ok k p h'⟩)

/-- The entry procedures, written out (R163, R165, R166). -/
theorem enterConnecting_eq (r : Reason) (s : State) :
    enterConnecting r s =
      { s with linkState := .connecting
               out := s.out ++ [.tpc .connect, .status false .connecting r] } := by
  simp [enterConnecting, State.emit, statusItem, LinkState.isConnected]

theorem enterConnected_eq (s : State) :
    enterConnected s =
      { s with linkState := .connected
               rxbuf := []
               missCnt := 0
               hbDiv := 0
               out := s.out ++ [.status true .connected .connected] } := by
  simp [enterConnected, State.emit, State.bufClear, statusItem, LinkState.isConnected]

theorem enterReconnecting_eq (r : Reason) (s : State) :
    enterReconnecting r s =
      { s with linkState := .reconnecting
               rtDiv := 0
               out := s.out ++ [.status false .reconnecting r] } := by
  simp [enterReconnecting, State.emit, statusItem, LinkState.isConnected]

theorem enterDisconnected_eq (close : Bool) (s : State) :
    enterDisconnected close s =
      { s with linkState := .disconnected
               out := s.out ++ ((if close then [.tpc .disconnect] else []) ++
                 [.status false .disconnected .userDisconnect]) } := by
  cases close <;> simp [enterDisconnected, State.emit, statusItem, LinkState.isConnected]

end Sys2Proof.Machine
end

