-- ==== Sys2Proof/Laws/Reassembler.lean ====
section
/-! SUPPORT. The reassembler's pass and loop: what one pass decides, that no read of the loop faults
(R50), and what a pass and the loop leave unchanged (R125, R147). -/

namespace Sys2Proof.Machine

/-- Below `MIN_FRAME` bytes the loop does not run (R122). -/
theorem nextPass_short (s : State) (h : s.rxbuf.length < s.cfg.minFrame) : nextPass s = .ok .stop := by
  simp [nextPass, h]

/-- The decision of a pass on a buffer of at least three bytes that the guard lets in, in the order of R123
to R126. -/
theorem nextPass_long (s : State) (b0 kind len : Byte) (body : List Byte)
    (hb : s.rxbuf = b0 :: kind :: len :: body) (h4 : ¬ s.rxbuf.length < s.cfg.minFrame) :
    nextPass s = .ok
      (if b0 ≠ s.cfg.sof then .drop
       else if body.length ≤ len.toNat then .stop
       else if body[len.toNat]? ≠ some s.cfg.eof then .drop
       else .yield kind (body.take len.toNat) (frameTotal len)) := by
  unfold nextPass
  rw [if_neg h4]
  have r0 : s.readByte 0 = .ok b0 := by simp [State.readByte, hb]
  have r1 : s.readByte 1 = .ok kind := by simp [State.readByte, hb]
  have r2 : s.readByte 2 = .ok len := by simp [State.readByte, hb]
  simp only [r0, r1, r2]
  by_cases h0 : b0 ≠ s.cfg.sof
  · simp [h0]
  · rw [if_neg h0, if_neg h0]
    by_cases hw : body.length ≤ len.toNat
    · have : s.rxbuf.length < frameTotal len := by simp [hb, frameTotal]; omega
      simp [hw, this]
    · have ht : ¬ s.rxbuf.length < frameTotal len := by simp [hb, frameTotal]; omega
      have he : s.readByte (frameTotal len - 1) = .ok (body[len.toNat]'(by omega)) := by
        have : frameTotal len - 1 = len.toNat + 3 := by simp [frameTotal]
        simp [State.readByte, hb, this, List.getElem?_eq_getElem (show len.toNat < body.length by omega)]
      have hm : s.memRead 3 (frameTotal len - 4) = .ok (body.take len.toNat) := by
        have : frameTotal len - 4 = len.toNat := by simp [frameTotal]
        simp [State.memRead, hb, this]; omega
      rw [if_neg ht, if_neg hw]
      simp only [he, hm]
      rw [List.getElem?_eq_getElem (show len.toNat < body.length by omega)]
      simp only [ne_eq, Option.some.injEq]
      split <;> rfl

/-- A buffer of at least three bytes, taken apart. -/
theorem long_buffer_cases (buf : List Byte) (h : 3 ≤ buf.length) :
    ∃ b0 kind len body, buf = b0 :: kind :: len :: body := by
  match buf, h with
  | b0 :: kind :: len :: body, _ => exact ⟨b0, kind, len, body, rfl⟩
  | [], h | [_], h | [_, _], h => simp at h

/-- No read of a pass is out of range where the guard lets in no fewer than three bytes (R50). -/
theorem nextPass_ok (s : State) (hm : 3 ≤ s.cfg.minFrame) : ∃ p, nextPass s = .ok p := by
  by_cases h : s.rxbuf.length < s.cfg.minFrame
  · exact ⟨_, nextPass_short s h⟩
  · obtain ⟨b0, kind, len, body, hb⟩ := long_buffer_cases s.rxbuf (by omega)
    exact ⟨_, nextPass_long s b0 kind len body hb h⟩

/-- A yielded frame lies whole inside the buffer: SOF, kind, length, payload, EOF (R125). -/
theorem nextPass_yield {s : State} {k : Byte} {p : List Byte} {n : Nat}
    (h : nextPass s = .ok (.yield k p n)) (hm : 3 ≤ s.cfg.minFrame) :
    ∃ rest, s.rxbuf = frameBytes s.cfg k p ++ rest ∧ n = p.length + 4 ∧ p.length ≤ 255 := by
  by_cases hs : s.rxbuf.length < s.cfg.minFrame
  · rw [nextPass_short s hs] at h; cases h
  · obtain ⟨b0, kind, len, body, hb⟩ := long_buffer_cases s.rxbuf (by omega)
    rw [nextPass_long s b0 kind len body hb hs] at h
    split at h
    · cases h
    · rename_i h0
      split at h
      · cases h
      · rename_i hw
        split at h
        · cases h
        · rename_i he
          injection h with h
          injection h with hk hp hn
          have hlt : len.toNat < body.length := by omega
          rw [List.getElem?_eq_getElem hlt] at he
          simp only [ne_eq, Option.some.injEq, not_not] at he h0
          have hpl : p.length = len.toNat := by rw [← hp]; simp; omega
          refine ⟨body.drop (len.toNat + 1), ?_, ?_, ?_⟩
          · rw [hb, h0, hk]
            have hd : body = body.take len.toNat ++ (s.cfg.eof :: body.drop (len.toNat + 1)) := by
              conv_lhs => rw [← List.take_append_drop len.toNat body, List.drop_eq_getElem_cons hlt, he]
            have hln : BitVec.ofNat 8 p.length = len := by rw [hpl]; simp
            rw [hp] at hd
            simp only [frameBytes, hln, List.cons_append, List.nil_append, List.append_assoc]
            rw [← hd]
          · rw [← hn, hpl]; rfl
          · have := len.isLt; omega

/-- What dispatch can do (R147): nothing, a CMD item, or the Heartbeat's liveness and echo. -/
theorem dispatch_cases (k : Byte) (p : List Byte) (s : State) :
    dispatch k p s = s ∨ (∃ c, dispatch k p s = s.emit (.cmd c)) ∨
    dispatch k p s =
      { s with missCnt := 0
               out := s.out ++ [.tx (frameBytes s.cfg s.cfg.kindHeartbeat [])] } := by
  unfold dispatch
  split
  · exact .inl rfl
  · split
    · exact .inl rfl
    · split
      · exact .inr (.inr (by simp [dispHeartbeat, State.emitHeartbeat_eq, State.emit]))
      · exact .inr (.inl ⟨_, rfl⟩)
      · exact .inr (.inl ⟨_, rfl⟩)
      · exact .inr (.inl ⟨_, rfl⟩)
      all_goals exact .inl rfl

/-- Dispatch writes only `miss_cnt` and OUT (R147). -/
theorem dispatch_frame (k : Byte) (p : List Byte) (s : State) :
    (dispatch k p s).linkState = s.linkState ∧ (dispatch k p s).rxbuf = s.rxbuf ∧
    (dispatch k p s).hbDiv = s.hbDiv ∧ (dispatch k p s).rtDiv = s.rtDiv ∧
    (dispatch k p s).faultPtl = s.faultPtl ∧ (dispatch k p s).cfg = s.cfg ∧
    (dispatch k p s).port = s.port ∧
    ((dispatch k p s).missCnt = s.missCnt ∨ (dispatch k p s).missCnt = 0) := by
  rcases dispatch_cases k p s with h | ⟨c, h⟩ | h <;> simp [h]

@[simp] theorem dispatch_cfg (k : Byte) (p : List Byte) (s : State) : (dispatch k p s).cfg = s.cfg :=
  (dispatch_frame k p s).2.2.2.2.2.1

@[simp] theorem dispatch_rxbuf (k : Byte) (p : List Byte) (s : State) :
    (dispatch k p s).rxbuf = s.rxbuf := (dispatch_frame k p s).2.1

@[simp] theorem yieldFrame_rxbuf (k : Byte) (p : List Byte) (n : Nat) (s : State) :
    (yieldFrame k p n s).rxbuf = s.rxbuf.drop n := by simp [yieldFrame]

@[simp] theorem yieldFrame_cfg (k : Byte) (p : List Byte) (n : Nat) (s : State) :
    (yieldFrame k p n s).cfg = s.cfg := by simp [yieldFrame]

/-- The loop never faults: every read of every pass is in range (R50). -/
theorem reassembleFor_ok (n : Nat) (s : State) (hm : 3 ≤ s.cfg.minFrame) :
    ∃ t, reassembleFor n s = .ok t := by
  induction n generalizing s with
  | zero => exact ⟨s, rfl⟩
  | succ n ih =>
    obtain ⟨p, hp⟩ := nextPass_ok s hm
    cases p with
    | stop => exact ⟨s, by simp [reassembleFor, hp]⟩
    | drop => simpa [reassembleFor, hp] using ih _ (by simpa using hm)
    | yield k q m => simpa [reassembleFor, hp] using ih _ (by simpa using hm)

/-- Packages the induction over the loop: a relation that holds of each pass and composes holds of the
whole loop. -/
theorem reassembleFor_induct {R : State → State → Prop} (refl : ∀ s, R s s)
    (trans : ∀ {a b c}, R a b → R b c → R a c)
    (hdrop : ∀ s, nextPass s = .ok .drop → R s (s.bufDrop 1))
    (hyield : ∀ s k p n, nextPass s = .ok (.yield k p n) → R s (yieldFrame k p n s))
    (n : Nat) (s t : State) (h : reassembleFor n s = .ok t) : R s t := by
  induction n generalizing s with
  | zero => cases h; exact refl _
  | succ n ih =>
    simp only [reassembleFor] at h
    split at h
    · cases h
    · cases h; exact refl _
    · exact trans (hdrop s ‹_›) (ih _ h)
    · exact trans (hyield s _ _ _ ‹_›) (ih _ h)

/-- The loop writes only `rxbuf`, `miss_cnt` and OUT (R120, R147). -/
theorem reassembleFor_frame (n : Nat) (s t : State) (h : reassembleFor n s = .ok t) :
    t.linkState = s.linkState ∧ t.hbDiv = s.hbDiv ∧ t.rtDiv = s.rtDiv ∧ t.faultPtl = s.faultPtl ∧
    t.cfg = s.cfg ∧ t.port = s.port ∧ (t.missCnt = s.missCnt ∨ t.missCnt = 0) := by
  refine reassembleFor_induct (R := fun s t => t.linkState = s.linkState ∧ t.hbDiv = s.hbDiv ∧
    t.rtDiv = s.rtDiv ∧ t.faultPtl = s.faultPtl ∧ t.cfg = s.cfg ∧ t.port = s.port ∧
    (t.missCnt = s.missCnt ∨ t.missCnt = 0)) ?_ ?_ ?_ ?_ n s t h
  · simp
  · rintro a b c ⟨h1, h2, h3, h4, h5, h6, h7⟩ ⟨g1, g2, g3, g4, g5, g6, g7⟩
    refine ⟨by rw [g1, h1], by rw [g2, h2], by rw [g3, h3], by rw [g4, h4], by rw [g5, h5],
      by rw [g6, h6], ?_⟩
    rcases g7 with g7 | g7
    · rcases h7 with h7 | h7
      · exact .inl (g7.trans h7)
      · exact .inr (g7.trans h7)
    · exact .inr g7
  · simp
  · intro s k p n _
    have := dispatch_frame k p ((s.bufDrop n).emit (.frame k p))
    obtain ⟨h1, _, h2, h3, h4, h5, h6, h7⟩ := this
    exact ⟨h1, h2, h3, h4, h5, h6, h7⟩

/-- The append and its overflow check write only `rxbuf` (R121). -/
theorem receive_cases (d : List Byte) (s : State) :
    (s.cfg.rxCap < s.rxbuf.length + d.length ∧ receive d s = s.bufClear) ∨
    (s.rxbuf.length + d.length ≤ s.cfg.rxCap ∧ receive d s = s.bufAppend d) := by
  unfold receive
  by_cases h : s.cfg.rxCap < s.rxbuf.length + d.length
  · exact .inl ⟨h, by simp [h, State.bufAppend, State.bufClear]⟩
  · exact .inr ⟨Nat.not_lt.mp h, by simp [h]⟩

@[simp] theorem receive_cfg (d : List Byte) (s : State) : (receive d s).cfg = s.cfg := by
  rcases receive_cases d s with ⟨_, h⟩ | ⟨_, h⟩ <;> simp [h]

/-- RX_CHUNK always completes (R120: "Faults: none"). -/
theorem execRxChunk_cases (d : List Byte) (s : State) (hm : 3 ≤ s.cfg.minFrame) :
    (s.linkState ≠ .connected ∧ execRxChunk d s = .next s) ∨
    (s.linkState = .connected ∧ ∃ t, reassemble (receive d s) = .ok t ∧ execRxChunk d s = .next t) := by
  unfold execRxChunk
  by_cases h : s.linkState = .connected
  · obtain ⟨t, ht⟩ := reassembleFor_ok (receive d s).rxbuf.length (receive d s) (by simpa using hm)
    exact .inr ⟨h, t, ht, by simp [h, reassemble, ht]⟩
  · exact .inl ⟨h, by simp [h]⟩

end Sys2Proof.Machine
end

