-- ==== Sys2Proof/Laws/Memory.lean ====
section
/-! SUPPORT. The buffer's laws: what a read gives after each buffer operation (R50), that the cell view
has strictly rising addresses, and that every operation keeps the buffer within its capacity (R36 I1). -/

namespace Sys2Proof.Machine

/-- An append moves no byte (R50: "No rule writes a byte in place"). -/
theorem readByte_bufAppend (s : State) (d : List Byte) (i : Nat) (h : i < s.rxbuf.length) :
    (s.bufAppend d).readByte i = s.readByte i := by
  simp [State.readByte, List.getElem?_append_left h]

/-- The appended bytes stand behind the old ones. -/
theorem readByte_bufAppend_back (s : State) (d : List Byte) (i : Nat) (h : i < d.length) :
    (s.bufAppend d).readByte (s.rxbuf.length + i) = .ok d[i] := by
  simp [State.readByte, h]

/-- Dropping `n` bytes renumbers the rest from 0. -/
theorem readByte_bufDrop (s : State) (n i : Nat) (h : n + i < s.rxbuf.length) :
    (s.bufDrop n).readByte i = s.readByte (n + i) := by
  simp [State.readByte, h]

/-- The addresses of the cell view are 0, 1, 2, … -/
theorem cells_addresses (m : Memory) : (Memory.cells m).map Prod.fst = List.range m.length := by
  simp only [Memory.cells, List.zipIdx_eq_zip_range', List.range_eq_range', List.map_map,
    Function.comp_def]
  exact List.map_snd_zip (by simp)

/-- The addresses of the cell view rise strictly. -/
theorem cells_strictly_rising (m : Memory) : ((Memory.cells m).map Prod.fst).Pairwise (· < ·) := by
  rw [cells_addresses]
  exact List.pairwise_lt_range

/-- Dropping keeps the capacity. -/
theorem wf_bufDrop (s : State) (n : Nat) (h : Memory.wf s.cfg s.rxbuf = true) :
    Memory.wf s.cfg (s.bufDrop n).rxbuf = true := by
  simp [Memory.wf] at *
  omega

/-- Clearing keeps the capacity. -/
theorem wf_bufClear (s : State) : Memory.wf s.cfg s.bufClear.rxbuf = true := by simp [Memory.wf]

/-- An append with its overflow check leaves the buffer within its capacity, whatever it held (R121). -/
theorem wf_receive (d : List Byte) (s : State) : Memory.wf s.cfg (receive d s).rxbuf = true := by
  rcases receive_cases d s with ⟨_, h⟩ | ⟨hle, h⟩ <;> simp [h, Memory.wf]
  exact hle

/-- The buffer only shrinks in the loop (R127). -/
theorem reassembleFor_rxbuf_length (n : Nat) (s t : State) (h : reassembleFor n s = .ok t) :
    t.rxbuf.length ≤ s.rxbuf.length := by
  refine reassembleFor_induct (R := fun s t => t.rxbuf.length ≤ s.rxbuf.length) ?_ ?_ ?_ ?_ n s t h
  · simp
  · intro a b c h1 h2; omega
  · intro s _; simp
  · intro s k p n _; simp

/-- The loop keeps the capacity. -/
theorem wf_reassembleFor (n : Nat) (s t : State) (h : reassembleFor n s = .ok t)
    (hw : Memory.wf s.cfg s.rxbuf = true) : Memory.wf t.cfg t.rxbuf = true := by
  have h1 := reassembleFor_rxbuf_length n s t h
  have h2 := (reassembleFor_frame n s t h).2.2.2.2.1
  simp [Memory.wf, h2] at *
  omega

/-- Reset's buffer is within its capacity. -/
theorem wf_reset (c : Config) : Memory.wf c (State.resetWith c).rxbuf = true := by
  simp [Memory.wf, State.resetWith]

end Sys2Proof.Machine
end

