-- ==== Sys2Proof/Laws/PerInstr.lean ====
section
/-! SUPPORT. Families of lemmas with one lemma per constructor of Instr (LAWS.json). -/

namespace Sys2Proof.Laws.EventWordLength

open Sys2Proof.Machine

/-- A well-formed event's event word has the length R88 reads from its front bytes. -/
def Statement (i : Instr) : Prop :=
  ∀ (c : Config) (rest : List Byte), i.wf c = true → i.isEvent = true →
    eventLength (encodeEvent i ++ rest) = some (encodeEvent i).length

theorem connectReq : Statement .connectReq := by intro c rest _ _; simp [encodeEvent, eventLength]
theorem disconnectReq : Statement .disconnectReq := by intro c rest _ _; simp [encodeEvent, eventLength]
theorem tpUp : Statement .tpUp := by intro c rest _ _; simp [encodeEvent, eventLength]
theorem tpDown : Statement .tpDown := by intro c rest _ _; simp [encodeEvent, eventLength]
theorem tick : Statement .tick := by intro c rest _ _; simp [encodeEvent, eventLength]

theorem rxChunk (data : List Byte) : Statement (.rxChunk data) := by
  intro c rest h _
  have hl : data.length ≤ 65535 := by simp [Instr.wf] at h; exact h.2
  simp [encodeEvent, eventLength, len16_lenLo_lenHi _ hl]
  omega

theorem txRaw (kind : Byte) (payload : List Byte) : Statement (.txRaw kind payload) := by
  intro c rest h _
  have hl : payload.length ≤ 255 := by simpa [Instr.wf] using h
  have hb := lenByte_toNat _ hl
  simp [encodeEvent, eventLength]
  omega

theorem txMove (f l r : I16) : Statement (.txMove f l r) := by
  intro c rest _ _; simp [encodeEvent, eventLength]
theorem txControl (p q mode : Byte) : Statement (.txControl p q mode) := by
  intro c rest _ _; simp [encodeEvent, eventLength]
theorem txTarget (x y : I16) : Statement (.txTarget x y) := by
  intro c rest _ _; simp [encodeEvent, eventLength]
theorem reservedEv (op : Byte) : Statement (.reservedEv op) := by
  intro c rest h _
  have ho : EvOp.ofByte op = none := by simpa [Instr.wf] using h
  simp [encodeEvent, eventLength, ho]

theorem heartbeat : Statement .heartbeat := by intro c rest _ h; cases h
theorem move (f l r : I16) : Statement (.move f l r) := by intro c rest _ h; cases h
theorem control (p q mode reserved : Byte) : Statement (.control p q mode reserved) := by
  intro c rest _ h; cases h
theorem target (x y : I16) : Statement (.target x y) := by intro c rest _ h; cases h
theorem unassignedKind (kind : Byte) (payload : List Byte) :
    Statement (.unassignedKind kind payload) := by intro c rest _ h; cases h
theorem malformedKnownKind (kind : Byte) (payload : List Byte) :
    Statement (.malformedKnownKind kind payload) := by intro c rest _ h; cases h

end Sys2Proof.Laws.EventWordLength
end

