-- ==== Sys2Proof/Laws/Runs.lean ====
section
/-! SUPPORT. The terms of the statements taken apart: new output items, the FRAME tap, the bytes of TX
items, frame streams, and runs of events in two halves. -/

namespace Sys2Proof.Machine

/-- What an event appended to OUT are its new items. -/
theorem newItems_eq {s t : State} {xs : List OutItem} (h : t.out = s.out ++ xs) :
    newItems s t = xs := by simp [newItems, h]

@[simp] theorem newItems_self (s : State) : newItems s s = [] := by simp [newItems]

@[simp] theorem tapFrames_append (a b : List OutItem) :
    tapFrames (a ++ b) = tapFrames a ++ tapFrames b := by
  induction a with
  | nil => rfl
  | cons o os ih => cases o <;> simp [tapFrames, ih]

@[simp] theorem txBytes_append (a b : List OutItem) : txBytes (a ++ b) = txBytes a ++ txBytes b := by
  induction a with
  | nil => rfl
  | cons o os ih => cases o <;> simp [txBytes, ih]

@[simp] theorem framesItems_append (c : Config) (a b : List (Byte × List Byte)) :
    framesItems c (a ++ b) = framesItems c a ++ framesItems c b := by
  induction a with
  | nil => rfl
  | cons f fs ih => simp [framesItems, ih]

@[simp] theorem frameStream_append (c : Config) (a b : List (Byte × List Byte)) :
    frameStream c (a ++ b) = frameStream c a ++ frameStream c b := by
  induction a with
  | nil => rfl
  | cons f fs ih => simp [frameStream, ih]

@[simp] theorem frameBytes_length (c : Config) (k : Byte) (p : List Byte) :
    (frameBytes c k p).length = p.length + 4 := by simp [frameBytes]

/-- Dispatch outputs no FRAME item (R147). -/
@[simp] theorem tapFrames_dispatchItems (c : Config) (k : Byte) (p : List Byte) :
    tapFrames (dispatchItems c k p) = [] := by
  unfold dispatchItems
  split <;> rfl

/-- The FRAME tap shows exactly the yielded frames, in order (R33). -/
@[simp] theorem tapFrames_framesItems (c : Config) (fs : List (Byte × List Byte)) :
    tapFrames (framesItems c fs) = fs := by
  induction fs with
  | nil => rfl
  | cons f fs ih => simp [framesItems, frameItems, tapFrames, ih]

/-- A run of two sequences is the second from where the first ends. -/
theorem runEvents_append (as bs : List Instr) (s : State) :
    runEvents (as ++ bs) s =
      (match runEvents as s with
       | .next t => runEvents bs t
       | .fault f => .fault f
       | .refused r => .refused r) := by
  induction as generalizing s with
  | nil => rfl
  | cons i is ih =>
    simp only [List.cons_append, runEvents]
    cases exec i s with
    | next t => exact ih t
    | fault f => rfl
    | refused r => rfl

@[simp] theorem tickCount_append (as bs : List Instr) :
    tickCount (as ++ bs) = tickCount as + tickCount bs := by
  induction as with
  | nil => simp [tickCount]
  | cons i is ih => simp [tickCount, ih, Nat.add_assoc]

/-- All that dispatch does (R140 to R147): the miss counter at a Heartbeat, and the frame's items. -/
theorem dispatch_eq (k : Byte) (p : List Byte) (s : State) :
    dispatch k p s =
      { s with
        missCnt := if classifyFrame s.cfg k p = .heartbeat then 0 else s.missCnt
        out := s.out ++ dispatchItems s.cfg k p } := by
  unfold dispatch dispatchItems classifyFrame
  cases s.cfg.kindOf k with
  | none => simp [ignore]
  | some f =>
    dsimp only
    split
    · simp [discard]
    · split <;> simp [dispHeartbeat, State.emitHeartbeat_eq, dispMove, dispControl, dispTarget,
        State.emit, discard]

/-- All that yielding a frame does (R125). -/
theorem yieldFrame_eq (k : Byte) (p : List Byte) (n : Nat) (s : State) :
    yieldFrame k p n s =
      { s with
        rxbuf := s.rxbuf.drop n
        missCnt := if classifyFrame s.cfg k p = .heartbeat then 0 else s.missCnt
        out := s.out ++ frameItems s.cfg k p } := by
  simp [yieldFrame, dispatch_eq, State.emit, State.bufDrop, frameItems]

end Sys2Proof.Machine
end

