-- ==== Sys2Proof/Machine/Asm.lean ====
section
/-! DEFINITION. The assembler text of the events (30_encoding.md R89; log entry 20). -/

namespace Sys2Proof.Machine

/-- A hexadecimal digit, upper case. -/
def hexDigit (n : Nat) : Char :=
  if n < 10 then Char.ofNat (48 + n) else Char.ofNat (55 + n)

/-- A byte as two hexadecimal digits. -/
def hexByte (b : Byte) : List Char := [hexDigit (b.toNat / 16), hexDigit (b.toNat % 16)]

/-- Bytes in hexadecimal, one space between them. -/
def hexBytes : List Byte → List Char
  | [] => []
  | [b] => hexByte b
  | b :: bs => hexByte b ++ ' ' :: hexBytes bs

/-- A signed decimal. -/
def decimal (n : Int) : List Char :=
  if n < 0 then '-' :: Nat.toDigits 10 n.natAbs else Nat.toDigits 10 n.natAbs

/-- A flag operand, `0` or `1` (R89). -/
def flagDigit (b : Byte) : List Char := if readFlag b then ['1'] else ['0']

/-- The assembler line of an event, as characters (R89); `none` for a frame class and for a reserved
opcode, which R89 gives no text. -/
def asmLine : Instr → Option (List Char)
  | .connectReq => some "CONNECT_REQ".toList
  | .disconnectReq => some "DISCONNECT_REQ".toList
  | .tpUp => some "TP_UP".toList
  | .tpDown => some "TP_DOWN".toList
  | .tick => some "TICK".toList
  | .rxChunk data => some ("RX_CHUNK ".toList ++ hexBytes data)
  | .txRaw kind payload =>
      some ("TX_RAW 0x".toList ++ hexByte kind ++ ", [".toList ++ hexBytes payload ++ [']'])
  | .txMove f l r =>
      some ("TX_MOVE ".toList ++ decimal f.toInt ++ ", ".toList ++ decimal l.toInt ++
        ", ".toList ++ decimal r.toInt)
  | .txControl p q mode =>
      some ("TX_CONTROL ".toList ++ flagDigit p ++ ", ".toList ++ flagDigit q ++ ", ".toList ++
        Nat.toDigits 10 mode.toNat)
  | .txTarget x y =>
      some ("TX_TARGET ".toList ++ decimal x.toInt ++ ", ".toList ++ decimal y.toInt)
  | .reservedEv _ | .heartbeat | .move _ _ _ | .control _ _ _ _ | .target _ _
  | .unassignedKind _ _ | .malformedKnownKind _ _ => none

end Sys2Proof.Machine
end

