-- ==== Sys2Proof/Tests/Slice0.lean ====
section
/-! SUPPORT. Tests. Every expected value is from the spec: the vectors of 95_test_vectors.md (named in
the test's comment), the encodings of 30_encoding.md, or the example of the rule named. -/

namespace Sys2Proof.Machine.Tests

/-- A state in the vectors' notation, with the tabled parameters and `RX_CAP` = 1024. -/
def st (l : LinkState) (miss hb rt : Nat) (buf : List Byte) (ptl : Bool) : State :=
  { linkState := l, missCnt := miss, hbDiv := hb, rtDiv := rt, rxbuf := buf, faultPtl := ptl,
    out := [], port := [], cfg := Config.chosen }

/-- Fresh CONNECTED. -/
def fresh : State := st .connected 0 0 0 [] false

/-- CONNECTED with a buffer and a capacity (RA vectors). -/
def withBuf (cap : Nat) (buf : List Byte) : State :=
  { fresh with rxbuf := buf, cfg := { Config.chosen with rxCap := cap } }

/-- The next state of an outcome. -/
def after (o : Host.Outcome State Fault Refusal) : Option State :=
  match o with
  | .next s => some s
  | .fault _ => none
  | .refused _ => none

/-- The refusal of an outcome. -/
def refusal (o : Host.Outcome State Fault Refusal) : Option Refusal :=
  match o with
  | .next _ => none
  | .fault _ => none
  | .refused r => some r

/-- Outputs and buffer after an event. -/
def outBuf (i : Instr) (s : State) : Option (List OutItem × List Byte) :=
  (after (exec i s)).map (fun t => (t.out, t.rxbuf))

/-- Outputs after an event. -/
def outs (i : Instr) (s : State) : Option (List OutItem) := (after (exec i s)).map (fun t => t.out)

def hb : OutItem := .tx [0xAA, 0x00, 0x00, 0x55]

/-- A configuration with other kind numbers and a longer Move (R6). -/
def otherKinds : Config :=
  { Config.chosen with kindHeartbeat := 0x10, kindMove := 0x11, lenMove := 8 }

/-! ## WellFormed smoke: one ill-formed term for each check (R81, R82, R86, R87, R88) -/

theorem test_wf_chunk_over_chunkMax :
    Instr.wf { Config.chosen with chunkMax := 2 } (.rxChunk [1, 2, 3]) = false := by decide
theorem test_wf_chunk_over_16_bits (d : List Byte) (h : d.length = 65536) :
    Instr.wf { Config.chosen with chunkMax := 70000 } (.rxChunk d) = false := by
  simp [Instr.wf, h]
theorem test_wf_raw_over_255 : Instr.wf Config.chosen (.txRaw 5 (List.replicate 256 0)) = false := by decide +kernel
theorem test_wf_reserved_tick : Instr.wf Config.chosen (.reservedEv 0x05) = false := by decide
theorem test_wf_unassigned_known : Instr.wf Config.chosen (.unassignedKind 0x03 []) = false := by decide
theorem test_wf_unassigned_long :
    Instr.wf Config.chosen (.unassignedKind 0x04 (List.replicate 256 0)) = false := by decide +kernel
theorem test_wf_malformed_unknown : Instr.wf Config.chosen (.malformedKnownKind 0x04 []) = false := by decide
theorem test_wf_malformed_exact : Instr.wf Config.chosen (.malformedKnownKind 0x00 []) = false := by decide
theorem test_wf_malformed_long :
    Instr.wf Config.chosen (.malformedKnownKind 0x01 (List.replicate 256 0)) = false := by decide +kernel
theorem test_config_ranges : Config.wf Config.chosen = true := by decide
theorem test_config_other_kinds : Config.wf otherKinds = true := by decide
theorem test_config_equal_kinds : Config.wf { Config.chosen with kindMove := 0x00 } = false := by decide
theorem test_config_short_move : Config.wf { Config.chosen with lenMove := 5 } = false := by decide
theorem test_config_minFrame : Config.wf { Config.chosen with minFrame := 3 } = false := by decide
theorem test_wf_frame_of_no_kind :
    Instr.wf { Config.chosen with lenTarget := 3 } (.target 1 2) = false := by decide
theorem test_config_period_zero : Config.wf { Config.chosen with hbPeriod := 0 } = false := by decide

/-! ## Decoding: words written out from R86, R88 (EW vectors) -/

theorem test_decode_connectReq : decodeEvent Config.chosen [0x01] = .ok (.connectReq, []) := by rfl
theorem test_decode_disconnectReq : decodeEvent Config.chosen [0x02] = .ok (.disconnectReq, []) := by rfl
theorem test_decode_tpUp : decodeEvent Config.chosen [0x03] = .ok (.tpUp, []) := by rfl
theorem test_decode_tpDown : decodeEvent Config.chosen [0x04] = .ok (.tpDown, []) := by rfl
/-- EW-1, with a byte of the next event word behind it. -/
theorem test_decode_tick : decodeEvent Config.chosen [0x05, 0x01] = .ok (.tick, [0x01]) := by rfl
/-- EW-3. -/
theorem test_decode_rxChunk :
    decodeEvent Config.chosen [0x10, 0x04, 0x00, 0xAA, 0x00, 0x00, 0x55] =
      .ok (.rxChunk [0xAA, 0x00, 0x00, 0x55], []) := by rfl
/-- The high byte of `n` (R88): 0x0100 = 256 bytes. -/
theorem test_decode_rxChunk_high :
    (decodeEvent Config.chosen ([0x10, 0x00, 0x01] ++ List.replicate 257 0x33)).toOption =
      some (.rxChunk (List.replicate 256 0x33), [0x33]) := by decide +kernel
theorem test_decode_txRaw :
    decodeEvent Config.chosen [0x20, 0x07, 0x01, 0xAA] = .ok (.txRaw 0x07 [0xAA], []) := by rfl
/-- EW-5: TX_MOVE -100, 0, 300. -/
theorem test_decode_txMove :
    decodeEvent Config.chosen [0x21, 0x9C, 0xFF, 0x00, 0x00, 0x2C, 0x01] =
      .ok (.txMove (BitVec.ofInt 16 (-100)) 0 300, []) := by rfl
theorem test_decode_txControl :
    decodeEvent Config.chosen [0x22, 0x05, 0x00, 0xFF] = .ok (.txControl 0x05 0x00 0xFF, []) := by rfl
theorem test_decode_txTarget :
    decodeEvent Config.chosen [0x23, 0x9C, 0xFF, 0x2C, 0x01] =
      .ok (.txTarget (BitVec.ofInt 16 (-100)) 300, []) := by rfl
theorem test_decode_reserved : decodeEvent Config.chosen [0x24] = .ok (.reservedEv 0x24, []) := by rfl
/-- EW-8. -/
theorem test_decode_cut : decodeEvent Config.chosen [0x10, 0x05, 0x00, 0xAA, 0x00] = .error .cutShort := by rfl
/-- EW-9. -/
theorem test_decode_cut_control : decodeEvent Config.chosen [0x22, 0x01, 0x00] = .error .cutShort := by rfl
theorem test_decode_chunk_too_long :
    decodeEvent { Config.chosen with chunkMax := 3 } [0x10, 0x04, 0x00, 0xAA, 0x00, 0x00, 0x55] =
      .error (.chunkTooLong 4) := by rfl
/-- The frame rows' header words with their frames (R75–R78, R81, R82, RA-9). -/
theorem test_frame_heartbeat :
    decodeFrameInstr Config.chosen [0xAA, 0x00, 0x00, 0x55] = some .heartbeat := by decide
theorem test_frame_move :
    decodeFrameInstr Config.chosen [0xAA, 0x01, 0x06, 0xFF, 0xFF, 0x00, 0x01, 0x00, 0x80, 0x55] =
      some (.move (BitVec.ofInt 16 (-1)) 256 (BitVec.ofInt 16 (-32768))) := by decide
theorem test_frame_control :
    decodeFrameInstr Config.chosen [0xAA, 0x02, 0x04, 0xFF, 0x07, 0x09, 0x33, 0x55] =
      some (.control 0xFF 0x07 0x09 0x33) := by decide
theorem test_frame_target :
    decodeFrameInstr Config.chosen [0xAA, 0x03, 0x04, 0x9C, 0xFF, 0x2C, 0x01, 0x55] =
      some (.target (BitVec.ofInt 16 (-100)) 300) := by decide
theorem test_frame_unassigned :
    decodeFrameInstr Config.chosen [0xAA, 0x05, 0x02, 0xAA, 0x55, 0x55] =
      some (.unassignedKind 0x05 [0xAA, 0x55]) := by decide
theorem test_frame_malformed :
    decodeFrameInstr Config.chosen [0xAA, 0x00, 0x01, 0x00, 0x55] =
      some (.malformedKnownKind 0x00 [0x00]) := by decide
theorem test_table_word_txMove : decodeTableWord 8 0x21 = some (.txMove 0 0 0) := by decide
theorem test_table_word_move : decodeTableWord 24 0xAA0106 = some (.move 0 0 0) := by decide
theorem test_table_word_unassigned : decodeTableWord 24 0xAA8000 = some (.unassignedKind 0x80 []) := by decide

/-! ## Frame Codec: EN and DE vectors -/

theorem test_encode_EN3 :
    encodeFrame Config.chosen 0x02 [1, 0, 2, 0] = .ok [0xAA, 0x02, 0x04, 1, 0, 2, 0, 0x55] := by rfl
theorem test_encode_EN8 :
    (encodeFrame Config.chosen 0x05 (List.replicate 253 0)).toOption = none := by decide +kernel
theorem test_decode_DE3 : decodeFrame Config.chosen [0xAA, 0x00] = .incomplete := by decide
theorem test_decode_DE6 : decodeFrame Config.chosen [0xAA, 0x00, 0x00, 0x54] = .invalid := by decide
theorem test_decode_DE7 : decodeFrame Config.chosen [0x00] = .invalid := by decide
theorem test_decode_DE10 : decodeFrame Config.chosen [0xAA, 0, 0, 0x55, 0xAA] = .frame 0 [] := by decide
theorem test_decode_DE11 : decodeFrame Config.chosen [0xAA, 0xAA, 1, 0x55, 0x55] = .frame 0xAA [0x55] := by decide
theorem test_decode_DE12 :
    decodeFrame Config.chosen ([0xAA, 5, 0xFF] ++ List.replicate 255 0 ++ [0x55]) =
      .frame 5 (List.replicate 255 0) := by decide +kernel

/-! ## TX events: TX vectors -/

theorem test_TX2 : outs (.txMove (BitVec.ofInt 16 (-1)) 256 (BitVec.ofInt 16 (-32768))) fresh =
    some [.tx [0xAA, 1, 6, 0xFF, 0xFF, 0x00, 0x01, 0x00, 0x80, 0x55]] := by decide
theorem test_TX5 : outs (.txControl 5 0 255) fresh = some [.tx [0xAA, 2, 4, 1, 0, 0xFF, 0, 0x55]] := by decide
theorem test_TX6 : outs (.txTarget (BitVec.ofInt 16 (-100)) 300) fresh =
    some [.tx [0xAA, 3, 4, 0x9C, 0xFF, 0x2C, 0x01, 0x55]] := by decide
theorem test_TX8 : outs (.txRaw 1 [0]) fresh = some [.tx [0xAA, 1, 1, 0, 0x55]] := by decide
/-- TX-12: the size check comes first. -/
theorem test_TX12 :
    after (exec (.txRaw 5 (List.replicate 255 0)) State.reset) =
      some { State.reset with faultPtl := true, out := [.err .payloadTooLarge] } := by decide +kernel
theorem test_TX13 : after (exec (.txMove 1 2 3) State.reset) = some State.reset := by decide

/-! ## RX_CHUNK: RA vectors -/

theorem test_RA2 : outBuf (.rxChunk [0x00, 0x11, 0xAA, 0, 0, 0x55]) fresh =
    some ([.frame 0 [], hb], []) := by decide
theorem test_RA3b : outBuf (.rxChunk [6, 0x64, 0, 0]) (withBuf 1024 [0xAA, 1]) =
    some ([], [0xAA, 1, 6, 0x64, 0, 0]) := by decide
theorem test_RA3c : outBuf (.rxChunk [0, 0, 0, 0x55]) (withBuf 1024 [0xAA, 1, 6, 0x64, 0, 0]) =
    some ([.frame 1 [0x64, 0, 0, 0, 0, 0], .cmd (.move 100 0 0)], []) := by decide
theorem test_RA4 : outBuf (.rxChunk [0xAA, 0, 2, 0x11, 0x22, 0x33, 0xAA, 0, 0, 0x55]) fresh =
    some ([.frame 0 [], hb], []) := by decide
theorem test_RA5b : outBuf (.rxChunk [0x33]) (withBuf 1024 [0x00, 0x11, 0x22]) =
    some ([], [0x11, 0x22, 0x33]) := by decide
theorem test_RA6 : outBuf (.rxChunk [0, 0, 0, 0]) (withBuf 8 [0xAA, 1, 6, 0x64, 0]) = some ([], []) := by decide
theorem test_RA7 : outBuf (.rxChunk [0xAA, 0, 0, 0x55, 0xAA, 0, 0, 0x55]) (withBuf 8 []) =
    some ([.frame 0 [], hb, .frame 0 [], hb], []) := by decide
theorem test_RA9 :
    outBuf (.rxChunk [0xAA, 0, 8, 0x55, 0xAA, 0, 0, 0x55, 0xAA, 0, 0, 0x55]) fresh =
      some ([.frame 0 [0x55, 0xAA, 0, 0, 0x55, 0xAA, 0, 0]], []) := by decide
theorem test_RA10 : outBuf (.rxChunk [0xAA, 2, 4, 0x9C, 0xFF, 0x2C, 0x01, 0x55]) fresh =
    some ([.frame 2 [0x9C, 0xFF, 0x2C, 0x01], .cmd (.control true true 44 1)], []) := by decide
/-- RA-11: one corrupted length byte misaligns every later frame. -/
theorem test_RA11 :
    outBuf (.rxChunk
      [0xAA, 1, 1, 0, 0x55, 0xAA, 0x10, 6, 0, 0x55, 0xAA, 1, 6, 0, 0x55, 0xAA, 0x10, 6, 0, 0x55,
       0xAA, 1, 6, 0, 0x55, 0xAA, 0x10, 6, 0, 0x55]) fresh =
      some ([.frame 1 [0], .frame 0x10 [0, 0x55, 0xAA, 1, 6, 0], .frame 0x10 [0, 0x55, 0xAA, 1, 6, 0]],
        [0xAA, 0x10, 6, 0, 0x55]) := by decide
theorem test_RA16 : outBuf (.rxChunk [0xAA, 0xAA, 0, 0, 0x55]) fresh = some ([.frame 0 [], hb], []) := by decide
theorem test_RA21 :
    outBuf (.rxChunk ([0xAA, 5, 0xFF] ++ List.replicate 255 0 ++ [0x55])) (withBuf 258 []) =
      some ([], []) := by decide +kernel
theorem test_RA22 : after (exec (.rxChunk [0xAA, 0, 0, 0x55]) (st .connecting 0 0 0 [0x01] false)) =
    some (st .connecting 0 0 0 [0x01] false) := by decide

/-! ## Dispatch: DI vectors (start `miss_cnt` = 2) -/

theorem test_DI1 : after (exec .heartbeat (st .connected 2 1 0 [] false)) =
    some { st .connected 0 1 0 [] false with out := [hb] } := by decide
theorem test_DI4 : dispatch 1 [0xFF, 0x7F, 0x01, 0x80, 0, 0] fresh =
    { fresh with out := [.cmd (.move 32767 (-32767) 0)] } := by decide
theorem test_DI6 : dispatch 1 [0x64, 0, 0, 0, 0, 0, 0] fresh = fresh := by decide
theorem test_DI8 : outs (.control 0xFF 7 9 0x33) fresh = some [.cmd (.control true true 9 0x33)] := by decide
theorem test_DI12 : dispatch 3 [0, 0x80, 0xFF, 0x7F] fresh =
    { fresh with out := [.cmd (.target (-32768) 32767)] } := by decide

/-- The kinds and lengths are arguments (R6): here Move is kind 0x11 with 8 payload bytes. -/
theorem test_other_kinds_move : dispatch 0x11 [1, 0, 2, 0, 3, 0, 9, 9] { fresh with cfg := otherKinds } =
    { fresh with cfg := otherKinds, out := [.cmd (.move 1 2 3)] } := by decide
theorem test_other_kinds_tx : outs (.txMove 1 2 3) { fresh with cfg := otherKinds } =
    some [.tx [0xAA, 0x11, 6, 1, 0, 2, 0, 3, 0, 0x55]] := by decide

/-! ## Link Supervisor: SU vectors -/

theorem test_SU1 : after (exec .connectReq State.reset) =
    some { State.reset with
      linkState := .connecting
      out := [.tpc .connect, .status false .connecting .connectRequested] } := by decide
theorem test_SU2 : after (exec .tpUp (st .connecting 4 1 2 [0xAA, 1] false)) =
    some { st .connected 0 0 2 [] false with out := [.status true .connected .connected] } := by decide
theorem test_SU5 : after (exec .tpDown (st .connected 1 1 0 [0xAA, 1] false)) =
    some { st .reconnecting 1 1 0 [0xAA, 1] false with
      out := [.status false .reconnecting .transportLost] } := by decide
theorem test_SU6 : outs .tpDown (st .connecting 0 0 0 [] false) =
    some [.status false .reconnecting .connectFailed] := by decide
theorem test_SU8 : outs .disconnectReq (st .connecting 0 0 0 [] false) =
    some [.tpc .disconnect, .status false .disconnected .userDisconnect] := by decide
theorem test_SU9 : after (exec .disconnectReq (st .reconnecting 0 0 2 [] false)) =
    some { st .disconnected 0 0 2 [] false with
      out := [.status false .disconnected .userDisconnect] } := by decide
theorem test_SU17 : after (exec .tick (st .connected 0 1 0 [] false)) =
    some { st .connected 1 0 0 [] false with out := [hb] } := by decide
/-- SU-3, TICK 8. -/
theorem test_SU3 : after (exec .tick (st .connected 3 1 2 [] false)) =
    some { st .reconnecting 4 0 0 [] false with
      out := [.tpc .abort, .status false .reconnecting .heartbeatTimeout] } := by decide
theorem test_SU18 : after (exec .tick (st .reconnecting 4 0 2 [] false)) =
    some { st .connecting 4 0 0 [] false with
      out := [.tpc .connect, .status false .connecting .retry] } := by decide

/-! ## LSTAT: LS vectors -/

theorem test_LS1 : State.reset.lstat = 0 := by decide
theorem test_LS3 : (st .connected 2 0 0 [0xAA, 0, 2, 0x11] false).lstat = 0x00040026 := by decide
theorem test_LS4 : (st .reconnecting 4 0 0 [] false).lstat = 0x00000043 := by decide
theorem test_LS5 : (st .disconnected 0 0 0 [] true).lstat = 0x00000008 := by decide

/-! ## The step, refusals, faults, assembler and environment -/

/-- Two event words in the port: the first runs, the second waits (R60, R208). -/
theorem test_step_takes_first :
    after (step { State.reset with port := [0x01, 0x03] }) =
      some { State.reset with
        linkState := .connecting
        port := [0x03]
        out := [.tpc .connect, .status false .connecting .connectRequested] } := by decide
theorem test_step_reserved :
    refusal (step { State.reset with port := [0x06] }) = some (.reservedOpcode 0x06) := by decide
theorem test_step_cut :
    refusal (step { State.reset with port := [0x23, 0] }) = some .eventWordCutShort := by decide
/-- A MOVE row runs as the first input after reset (R125, R143). -/
theorem test_withFetchWord_move :
    (after (step (State.reset.withFetchWord 24 0xAA0106))).map (fun t => (t.out, t.port)) =
      some ([.frame 1 [0, 0, 0, 0, 0, 0], .cmd (.move 0 0 0)], []) := by decide
theorem test_withFetchWord_txTarget :
    (State.reset.withFetchWord 8 0x23).port = [0x23, 0, 0, 0, 0] := by decide
/-- R209's example classes: RA-2's two noise bytes, DI-14's unknown kind. -/
theorem test_faults_RA2 : detectedFaults (.rxChunk [0x00, 0x11, 0xAA, 0, 0, 0x55]) fresh =
    [.framing, .framing] := by decide
theorem test_faults_unknown_kind : detectedFaults (.rxChunk [0xAA, 4, 0, 0x55]) fresh = [.semantic] := by decide
/-- R89 with the operands of R110's example. -/
theorem test_asm_txTarget :
    asmLine (.txTarget (BitVec.ofInt 16 (-100)) 300) = some "TX_TARGET -100, 300".toList := by decide
theorem test_asm_txRaw : asmLine (.txRaw 0x07 [0xAA]) = some "TX_RAW 0x07, [AA]".toList := by decide
/-- E1: no TP_UP without an attempt. -/
theorem test_env_no_tpUp :
    (match (Endpoint.reset Config.chosen).move .tpUp with
     | .refused r => some r
     | .next _ => none
     | .fault _ => none) = some (.environmentDuty 1) := by decide

/-! ## Witnesses: for each statement with hypotheses, values that meet all of them together, at the
boundary of each clause -/

/-- A link state with a `MAX_PAYLOAD`. -/
def withMax (l : LinkState) (n : Nat) : State :=
  { st l 0 0 0 [] false with cfg := { Config.chosen with maxPayload := n } }

/-- CONNECTED with the misses at the limit and one tick before the heartbeat tick. -/
def edge : State := st .connected 3 1 0 [] false

theorem witness_ParametersAndCodesAreTheTabledOnes : 1 ≤ 1 ∧ 65535 ≤ 65535 := by decide
theorem witness_ResetGivesTheResetValuesInAnyState : edge.cfg.wf = true := by decide
theorem witness_OnlyConnectReqHasAnEffectWhenDisconnected :
    State.reset.linkState = .disconnected ∧ Instr.isEvent .tick = true ∧
    Instr.tick ≠ .connectReq ∧ exec .tick State.reset = .next State.reset :=
  ⟨rfl, rfl, by decide, rfl⟩
theorem witness_OnlyConnectReqHasAnEffectWhenDisconnected_fault :
    detectedFaults (.txRaw 5 (List.replicate 253 0)) State.reset = [.programming] ∧
    ∃ t, exec (.txRaw 5 (List.replicate 253 0)) State.reset = .next t :=
  ⟨by decide +kernel, _, rfl⟩
theorem witness_StatusWordFieldsReadTheState :
    State.inv { edge with missCnt := 14, cfg := { Config.chosen with hbMissLimit := 14, rxCap := 65535 } }
      = true := by decide
theorem witness_OperandFieldsAreLittleEndianAndFlagsNormalised : (0x01 : Byte) ≠ 0x00 := by decide
theorem witness_WrittenOutWordsDecode : 4 ≤ (Config.hardware 1 4 1 1 { host := [], port := 0 }).chunkMax := by
  decide
theorem witness_OneEventRowDecidesEveryOpcode :
    decodeEvent Config.chosen (0x24 :: [0x05]) = .ok (.reservedEv 0x24, [0x05]) := rfl
theorem witness_OneHeaderRowDecidesEveryFrame :
    Config.chosen.framesTabled = true ∧
    (List.replicate 255 (0 : Byte)).length = (0xFF : Byte).toNat ∧
    ([] : List Byte).length = (0x00 : Byte).toNat := by decide +kernel
theorem witness_EventWordsDecodeToTheirEvents :
    Instr.isEvent (.txRaw 5 (List.replicate 255 0)) = true ∧
    Instr.wf Config.chosen (.txRaw 5 (List.replicate 255 0)) = true ∧
    Instr.wf { Config.chosen with chunkMax := 2 } (.rxChunk [0xAA, 0x00]) = true ∧
    Instr.wf Config.chosen (.reservedEv 0xFF) = true := by decide +kernel
theorem witness_DecodedEventsComeFromTheirEventWords :
    Config.chosen.chunkMax ≤ 65535 ∧
    decodeEvent Config.chosen [0x20, 0x07, 0x01, 0xAA, 0x05] = .ok (.txRaw 0x07 [0xAA], [0x05]) :=
  ⟨by decide, rfl⟩
theorem witness_WireFramesDecodeToTheirClasses :
    Instr.isFrame (.unassignedKind 0x04 (List.replicate 255 0)) = true ∧
    Instr.wf Config.chosen (.unassignedKind 0x04 (List.replicate 255 0)) = true ∧
    Instr.wf Config.chosen (.malformedKnownKind 0x03 [0, 0, 0]) = true ∧
    Instr.wf otherKinds (.move 1 2 3) = true ∧
    Instr.wf Config.chosen .heartbeat = true := by decide +kernel
theorem witness_EncodeBuildsTheFrameOrRaises :
    (List.replicate 252 (0 : Byte)).length ≤ Config.chosen.maxPayload ∧
    Config.chosen.maxPayload < (List.replicate 253 (0 : Byte)).length ∧
    Config.chosen.maxPayload ≤ 255 ∧
    encodeFrame Config.chosen 0x00 [] = .ok [0xAA, 0x00, 0x00, 0x55] :=
  ⟨by decide +kernel, by decide +kernel, by decide, rfl⟩
theorem witness_CodecRoundTrip :
    Config.chosen.maxPayload ≤ 255 ∧
    (List.replicate 252 (0xAA : Byte)).length ≤ Config.chosen.maxPayload := by decide +kernel
theorem witness_EncodeIsInjective :
    encodeFrame Config.chosen 0x07 [0xAA] = .ok [0xAA, 0x07, 0x01, 0xAA, 0x55] := rfl
theorem witness_DecodeOfShortWindows :
    1 ≤ ([0x00] : List Byte).length ∧ ([0x00, 0xAA, 0xAA] : List Byte).length ≤ 3 ∧
    ([0x00] : List Byte)[0]? ≠ some Config.chosen.sof ∧
    ([0x00, 0xAA, 0xAA] : List Byte)[0]? ≠ some Config.chosen.sof := by decide
theorem witness_DecodeIgnoresBytesBehindTheFrame :
    ([0xAA, 0, 0, 0x55] : List Byte)[2]? = some 0 ∧
    frameTotal 0 ≤ ([0xAA, 0, 0, 0x55] : List Byte).length ∧
    decodeFrame Config.chosen [0xAA, 0, 0, 0x55] = .frame 0 [] := by decide
theorem witness_StructuralOnlyFramesAreAcceptedAndDropped :
    (List.replicate 255 (0 : Byte)).length ≤ 255 ∧ fresh.cfg.framesTabled = true ∧
    253 ≤ (List.replicate 253 (0 : Byte)).length ∧
    decodeFrame Config.chosen ([0xAA, 5, 0xFF] ++ List.replicate 255 0 ++ [0x55]) =
      .frame 5 (List.replicate 255 0) := by decide +kernel
theorem witness_TxRawSendsDropsOrReports :
    (List.replicate 255 (0 : Byte)).length ≤ 255 ∧
    fresh.cfg.maxPayload < (List.replicate 253 (0 : Byte)).length ∧
    (List.replicate 252 (0 : Byte)).length ≤ fresh.cfg.maxPayload ∧
    fresh.linkState = .connected ∧ State.reset.linkState ≠ .connected := by decide +kernel
/-- `MAX_PAYLOAD` 6, the length of TX_MOVE's payload. -/
theorem witness_TxMoveSendsItsFrame :
    (6 ≤ (withMax .connected 6).cfg.maxPayload ∧ (withMax .connected 6).linkState = .connected) ∧
    (6 ≤ (withMax .reconnecting 6).cfg.maxPayload ∧
      (withMax .reconnecting 6).linkState ≠ .connected) := by decide
/-- `MAX_PAYLOAD` 4, the length of TX_CONTROL's payload. -/
theorem witness_TxControlSendsItsFrame :
    (4 ≤ (withMax .connected 4).cfg.maxPayload ∧ (withMax .connected 4).linkState = .connected) ∧
    (4 ≤ (withMax .reconnecting 4).cfg.maxPayload ∧
      (withMax .reconnecting 4).linkState ≠ .connected) := by decide
/-- `MAX_PAYLOAD` 4, the length of TX_TARGET's payload. -/
theorem witness_TxTargetSendsItsFrame :
    (4 ≤ (withMax .connected 4).cfg.maxPayload ∧ (withMax .connected 4).linkState = .connected) ∧
    (4 ≤ (withMax .reconnecting 4).cfg.maxPayload ∧
      (withMax .reconnecting 4).linkState ≠ .connected) := by decide
theorem witness_TypedTxEventsRaiseWhereTheirPayloadDoesNotFit :
    (withMax .connected 5).cfg.maxPayload < 6 ∧ (withMax .connected 3).cfg.maxPayload < 4 := by decide
theorem witness_OnlyOversizedTxRawReportsAFault :
    6 ≤ State.reset.cfg.maxPayload ∧
    ∃ t, exec (.txRaw 5 (List.replicate 253 0)) State.reset = .next t ∧
      OutItem.err .payloadTooLarge ∈ newItems State.reset t :=
  ⟨by decide, _, rfl, by decide +kernel⟩
theorem witness_HeartbeatFrameIsEchoedAndClearsMisses : fresh.cfg.framesTabled = true := by decide
theorem witness_CommandFramesGiveTheirCommands : fresh.cfg.framesTabled = true := by decide
theorem witness_MalformedAndUnassignedFramesDoNothing :
    (fresh.cfg.kindOf 0x03 = some .target ∧ ([1, 2, 3] : List Byte).length ≠ fresh.cfg.kindLen .target) ∧
    fresh.cfg.framesTabled = true ∧ fresh.cfg.kindOf 0x04 = none := by decide
theorem witness_DispatchSelectsByKindAndSize :
    fresh.cfg.framesTabled = true ∧
    ([1, 2, 3, 4, 5, 6] : List Byte).length = 6 ∧ ([1, 2, 3, 4, 5] : List Byte).length ≠ 6 ∧
    ([1, 2, 3, 4] : List Byte).length = 4 ∧ ([1, 2, 3, 4, 5] : List Byte).length ≠ 4 ∧
    4 ≤ (0x04 : Byte).toNat ∧ 4 ≤ (0xFF : Byte).toNat := by decide
/-- `RX_CAP` and `CHUNK_MAX` exactly the frame's length. -/
theorem witness_StepRunsAReceivedFrameAsItsInstruction :
    ∃ s : State, s.linkState = .connected ∧ s.rxbuf = [] ∧ s.cfg.wf = true ∧ ([0x11] : List Byte).length ≤ 255 ∧
      ([0x11] : List Byte).length + 4 ≤ s.cfg.rxCap ∧ ([0x11] : List Byte).length + 4 ≤ s.cfg.chunkMax ∧
      s.port = encodeEvent (.rxChunk (frameBytes s.cfg 0x04 [0x11])) ++ [0x05] :=
  ⟨{ fresh with
      port := [0x10, 0x05, 0x00, 0xAA, 0x04, 0x01, 0x11, 0x55, 0x05]
      cfg := { Config.chosen with rxCap := 5, chunkMax := 5 } }, by decide⟩
theorem witness_BufferReadsAreChecked :
    1 + 2 ≤ (withBuf 8 [1, 2, 3]).rxbuf.length ∧ (withBuf 8 [1, 2, 3]).rxbuf.length < 1 + 3 ∧
    2 < (withBuf 8 [1, 2, 3]).rxbuf.length ∧ (withBuf 8 [1, 2, 3]).rxbuf.length ≤ 3 := by decide
theorem witness_RxChunkDiscardsClearsOrReassembles :
    3 ≤ State.reset.cfg.minFrame ∧ 3 ≤ (withBuf 8 [1, 2, 3]).cfg.minFrame ∧
    State.reset.linkState ≠ .connected ∧ (withBuf 8 [1, 2, 3]).linkState = .connected ∧
    (withBuf 8 [1, 2, 3]).cfg.rxCap < (withBuf 8 [1, 2, 3]).rxbuf.length + [1, 2, 3, 4, 5, 6].length ∧
    (withBuf 8 [1, 2, 3]).rxbuf.length + [1, 2, 3, 4, 5].length ≤ (withBuf 8 [1, 2, 3]).cfg.rxCap := by
  decide
theorem witness_ResyncDropsOneByte :
    (withBuf 8 [0xAA, 0, 0, 0x54]).cfg.minFrame ≤ (withBuf 8 [0xAA, 0, 0, 0x54]).rxbuf.length ∧
    (0x00 : Byte) ≠ (withBuf 8 [0x00, 0, 0, 0]).cfg.sof ∧ (0xAA : Byte) = (withBuf 8 []).cfg.sof ∧
    frameTotal 0 ≤ (withBuf 8 [0xAA, 0, 0, 0x54]).rxbuf.length ∧
    (withBuf 8 [0xAA, 0, 0, 0x54]).rxbuf[frameTotal 0 - 1]? ≠ some (withBuf 8 []).cfg.eof := by decide
theorem witness_PassAgreesWithDecode :
    (withBuf 8 [0xAA, 0, 0]).rxbuf.length < (withBuf 8 []).cfg.minFrame ∧
    3 ≤ (withBuf 8 []).cfg.minFrame ∧ (withBuf 8 []).cfg.minFrame ≤ (withBuf 8 [0xAA, 0, 0, 0x55]).rxbuf.length ∧
    decodeFrame Config.chosen [0xAA, 0, 0, 0x55] = .frame 0 [] ∧
    decodeFrame Config.chosen [0xAA, 0, 1, 0x55] = .incomplete ∧
    decodeFrame Config.chosen [0xAA, 0, 0, 0xAA] = .invalid := by decide
/-- A buffer of `MIN_FRAME` bytes, and a bound on the passes equal to it. -/
theorem witness_LoopEndsParked : (withBuf 8 [0xAA, 0, 1, 0x55]).cfg.wf = true ∧ (withBuf 8 [0xAA, 0, 1, 0x55]).rxbuf.length ≤ 4 := by decide
theorem witness_RxChunkOutputsItsFramesInOrder :
    fresh.linkState = .connected ∧ 3 ≤ fresh.cfg.minFrame := by decide
theorem witness_EmptyChunkChangesNothing :
    (withBuf 8 [0xAA, 0, 1, 0x55]).inv = true ∧ State.reset.inv = true := by decide
theorem witness_FragmentationIndependence :
    fresh.linkState = .connected ∧ fresh.inv = true ∧
    [[0xAA, 0x00], [], [0x00, 0x55]].flatten = [([0xAA, 0x00, 0x00, 0x55] : List Byte)].flatten ∧
    noOverflow [[0xAA, 0x00], [], [0x00, 0x55]] fresh = true ∧
    noOverflow [[0xAA, 0x00, 0x00, 0x55]] fresh = true := by decide
theorem witness_LargeBufferNeverOverflows :
    ∃ s : State, s.inv = true ∧ 258 + s.cfg.chunkMax ≤ s.cfg.rxCap ∧
      ∀ c ∈ [([0xAA, 0x00] : List Byte), []], c.length ≤ s.cfg.chunkMax :=
  ⟨{ fresh with cfg := { Config.chosen with chunkMax := 2, rxCap := 260 } }, by decide⟩
/-- The corrupted byte is the first of a frame of 259 bytes; the next frame starts at `c + 259`. -/
theorem witness_OneCorruptedByteLosesABoundedStretch :
    fresh.linkState = .connected ∧ fresh.cfg.wf = true ∧ fresh.rxbuf = [] ∧
    (∀ f ∈ [((0x05 : Byte), List.replicate 255 (0 : Byte)), (0x00, [])],
      sofOnlyAtStart fresh.cfg f = true) ∧
    0 + 259 ≤ (frameStream fresh.cfg [(0x05, List.replicate 255 0)]).length ∧
    noOverflow
      [(frameStream fresh.cfg [(0x05, List.replicate 255 0), (0x00, [])]).set 0 0x55] fresh = true := by
  decide +kernel
theorem witness_ConnectReqStartsAnAttemptOnlyWhenDisconnected :
    State.reset.linkState = .disconnected ∧ fresh.linkState ≠ .disconnected := by decide
theorem witness_DisconnectReqClosesWhatIsOpen :
    fresh.linkState = .connected ∧ (st .connecting 0 0 0 [] false).linkState = .connecting ∧
    (st .reconnecting 0 0 0 [] false).linkState = .reconnecting ∧
    State.reset.linkState = .disconnected := by decide
theorem witness_TpUpEntersConnectedFromConnectingOnly :
    (st .connecting 4 1 2 [0xAA] false).linkState = .connecting ∧ fresh.linkState ≠ .connecting := by decide
theorem witness_TpDownEntersReconnecting :
    fresh.linkState = .connected ∧ (st .connecting 0 0 0 [] false).linkState = .connecting ∧
    State.reset.linkState = .disconnected ∧
    (st .reconnecting 0 0 0 [] false).linkState = .reconnecting := by decide
theorem witness_TickAdvancesTheRunningTimer :
    State.reset.linkState = .disconnected ∧
    (fresh.linkState = .connected ∧ fresh.hbDiv + 1 ≠ fresh.cfg.hbPeriod) ∧
    (edge.linkState = .connected ∧ edge.hbDiv + 1 = edge.cfg.hbPeriod ∧ edge.cfg.hbMissLimit < edge.missCnt + 1) ∧
    ((st .connected 2 1 0 [] false).linkState = .connected ∧
      (st .connected 2 1 0 [] false).hbDiv + 1 = edge.cfg.hbPeriod ∧
      (st .connected 2 1 0 [] false).missCnt + 1 ≤ edge.cfg.hbMissLimit) ∧
    ((st .reconnecting 0 0 1 [] false).linkState = .reconnecting ∧
      (st .reconnecting 0 0 1 [] false).rtDiv + 1 ≠ edge.cfg.retryPeriod) ∧
    ((st .reconnecting 0 0 2 [] false).linkState = .reconnecting ∧
      (st .reconnecting 0 0 2 [] false).rtDiv + 1 = edge.cfg.retryPeriod) := by decide
theorem witness_LinkStateChangesOnlyByTheTransitionTable :
    ∃ t, exec .tick edge = .next t ∧ t.linkState ≠ edge.linkState := ⟨_, rfl, by decide⟩
theorem witness_LinkStateChangesOnlyByTheTransitionTable_same :
    ∃ t, exec .tick fresh = .next t ∧ t.linkState = fresh.linkState := ⟨_, rfl, by decide⟩
theorem witness_UserDisconnectSuppressesReconnect :
    ∃ u t, exec .disconnectReq fresh = .next u ∧
      Instr.connectReq ∉ [.tpDown, .tick, .tick, .tick, .tpUp] ∧
      runEvents [.tpDown, .tick, .tick, .tick, .tpUp] u = .next t := ⟨_, _, rfl, by decide, rfl⟩
/-- Tick 8 of the default parameters (R173), and the tick before it. -/
theorem witness_HeartbeatTimeoutComesAtItsTick :
    ∃ t, runEvents (List.replicate 7 .tick) fresh = .next t ∧ fresh.linkState = .connected ∧
      fresh.missCnt = 0 ∧ fresh.hbDiv < fresh.cfg.hbPeriod ∧
      (∀ i ∈ List.replicate 7 Instr.tick, i.isEvent = true) ∧
      Instr.tpDown ∉ List.replicate 7 Instr.tick ∧ Instr.disconnectReq ∉ List.replicate 7 Instr.tick ∧
      (∀ f ∈ tapFrames (newItems fresh t), classifyFrame fresh.cfg f.1 f.2 ≠ .heartbeat) ∧
      tickCount (List.replicate 7 .tick) + 1 = 8 ∧
      8 = (fresh.cfg.hbPeriod - fresh.hbDiv) + fresh.cfg.hbPeriod * fresh.cfg.hbMissLimit :=
  ⟨_, rfl, by decide, by decide, by decide, by decide, by decide, by decide, by decide, by decide,
    by decide⟩
theorem witness_HeartbeatTimeoutComesAtItsTick_before :
    ∃ t, runEvents [.txTarget 1 2, .tick] fresh = .next t ∧
      (∀ f ∈ tapFrames (newItems fresh t), classifyFrame fresh.cfg f.1 f.2 ≠ .heartbeat) ∧
      tickCount [.txTarget 1 2, .tick] + 1 < 8 :=
  ⟨_, rfl, by decide, by decide⟩
theorem witness_RetryComesAtItsTick :
    (st .reconnecting 0 0 0 [] false).linkState = .reconnecting ∧
    (st .reconnecting 0 0 0 [] false).rtDiv = 0 ∧ 1 ≤ Config.chosen.retryPeriod ∧
    2 < Config.chosen.retryPeriod ∧ Config.chosen.retryPeriod ≤ 3 := by decide
theorem witness_TickAgainstHeartbeatRace :
    edge.linkState = .connected ∧ edge.rxbuf = [] ∧ edge.missCnt = edge.cfg.hbMissLimit ∧
    edge.hbDiv + 1 = edge.cfg.hbPeriod ∧ 1 ≤ edge.cfg.hbMissLimit ∧ 4 ≤ edge.cfg.rxCap ∧
    edge.cfg.wf = true ∧ edge.cfg.framesTabled = true := by decide
theorem witness_StepRunsTheEventAtThePort :
    decodeEvent Config.chosen [0x05, 0x01] = .ok (.tick, [0x01]) ∧ State.reset.port = [] := ⟨rfl, rfl⟩
/-- The ends of the reserved ranges of R87, `n` = `CHUNK_MAX` + 1, and a word cut by one byte. -/
theorem witness_MalformedEventWordsAreRefused :
    ((0x00 : Byte).toNat = 0 ∧ 0x06 ≤ (0x06 : Byte).toNat ∧ (0x0F : Byte).toNat ≤ 0x0F ∧
      0x11 ≤ (0x11 : Byte).toNat ∧ (0x1F : Byte).toNat ≤ 0x1F ∧ 0x24 ≤ (0x24 : Byte).toNat) ∧
    (∃ s : State, s.port = 0x10 :: 0x04 :: 0x00 :: [1, 2, 3, 4] ∧
      s.cfg.chunkMax < (0x04 : Byte).toNat + 256 * (0x00 : Byte).toNat ∧
      (0x04 : Byte).toNat + 256 * (0x00 : Byte).toNat ≤ [1, 2, 3, 4].length) ∧
    (∃ s : State, Instr.isEvent (.txTarget 1 2) = true ∧ Instr.wf s.cfg (.txTarget 1 2) = true ∧
      s.port = (encodeEvent (.txTarget 1 2)).take 4 ∧ 1 ≤ 4 ∧
      4 < (encodeEvent (.txTarget 1 2)).length) :=
  ⟨by decide,
    ⟨{ State.reset with
        port := [0x10, 0x04, 0x00, 1, 2, 3, 4], cfg := { Config.chosen with chunkMax := 3 } },
      by decide⟩,
    { State.reset with port := [0x23, 1, 0, 2] }, by decide⟩
theorem witness_NoFaultStopsTheBlock :
    3 ≤ State.reset.cfg.minFrame ∧ ∀ op, Instr.tick ≠ .reservedEv op := ⟨by decide, by intro op; simp⟩
theorem witness_NoFaultStopsTheBlock_refused :
    step { State.reset with port := [0x22, 0x01] } = .refused .eventWordCutShort := rfl
theorem witness_StepKeepsTheInvariants :
    Config.chosen.wf = true ∧ edge.inv = true ∧ ∃ t, step { edge with port := [0x05], faultPtl := true } = .next t :=
  ⟨by decide, by decide, _, rfl⟩
theorem witness_EachFieldHasItsWriters : ∃ t, exec .heartbeat edge = .next t := ⟨_, rfl⟩
theorem witness_EveryTxItemIsOneEncodedFrame :
    ∃ t, exec .tick (st .connected 0 1 0 [] false) = .next t ∧
      OutItem.tx [0xAA, 0x00, 0x00, 0x55] ∈ newItems (st .connected 0 1 0 [] false) t :=
  ⟨_, rfl, by decide⟩
theorem witness_OneEventDetectsAtMostOneOfEachSingleFault :
    3 ≤ (withBuf 8 [1, 2, 3]).cfg.minFrame ∧
    detectedFaults (.rxChunk [1, 2, 3, 4, 5, 6]) (withBuf 8 [1, 2, 3]) = [.capacity] ∧
    detectedFaults .tick edge = [.liveness] ∧ detectedFaults .tpDown fresh = [.transport] ∧
    ∃ t, exec (.rxChunk [1, 2, 3, 4, 5, 6]) (withBuf 8 [1, 2, 3]) = .next t :=
  ⟨by decide, by decide, by decide, by decide, _, rfl⟩

/-- An endpoint in CONNECTED, with bytes in its ingress. -/
def linked (ingress : List Byte) : Endpoint :=
  { core := fresh
    transport := { attempt := false, session := true, closing := false, ingress := ingress } }

/-- An endpoint in CONNECTING. -/
def connecting : Endpoint :=
  { core := st .connecting 0 0 0 [] false
    transport := { attempt := true, session := false, closing := false, ingress := [] } }

/-- A pair with both ends up and bytes in flight. -/
def pairOf (toRight toLeft : List Byte) : Pair :=
  { left := linked []
    right := linked []
    toRight := { bytes := toRight, stale := 0 }
    toLeft := { bytes := toLeft, stale := 0 } }

/-- The left end is up and has written; the right end's attempt is open. -/
def halfUp : Pair :=
  { left := linked []
    right := connecting
    toRight := { bytes := [0xAA, 0], stale := 1 }
    toLeft := Wire.empty }

/-- What waits in the two ingresses after some moves of a pair. -/
def ingresses (o : Host.Outcome Pair Fault Refusal) : Option (List Byte × List Byte) :=
  match o with
  | .next p => some (p.left.transport.ingress, p.right.transport.ingress)
  | .fault _ => none
  | .refused _ => none

/-- Why the environment has no such move of a pair. -/
def refusalOf (o : Host.Outcome Pair Fault Refusal) : Option Refusal :=
  match o with
  | .refused r => some r
  | .next _ => none
  | .fault _ => none

theorem witness_EnvironmentHasNoMoveThatBreaksADuty :
    (Endpoint.reset Config.chosen).transport.attempt = false ∧
    (Endpoint.reset Config.chosen).transport.session = false ∧
    (Endpoint.reset Config.chosen).transport.closing = false ∧
    (linked [0xAA]).transport.session = true ∧ (linked [0xAA]).transport.ingress.length < 2 ∧
    { Config.chosen with chunkMax := 1 }.chunkMax < 2 := by decide
theorem witness_EnvironmentHasNoMoveThatBreaksADuty_used :
    (∃ e', connecting.move .tpUp = .next e') ∧ (∃ e', (linked []).move .tpDown = .next e') ∧
    ∃ e', (linked [0xAA]).take .disconnectReq = .next e' ∧
      OutItem.tpc .disconnect ∈ newItems (linked [0xAA]).core e'.core :=
  ⟨⟨_, rfl⟩, ⟨_, rfl⟩, _, rfl, by decide⟩
theorem witness_TransportAndSupervisorStayInAgreement :
    (linked [0xAA]).agrees = true ∧
    (∃ e', Endpoint.run [.arrive [0, 0], .deliver 3, .tpDown, .tick] (linked [0xAA]) = .next e') ∧
    halfUp.agrees = true ∧
    ∃ p', Pair.run [.loseRight 1, .right .tpUp, .carryRight 1, .left .tpDown] halfUp = .next p' :=
  ⟨by decide, ⟨_, rfl⟩, by decide, _, rfl⟩
theorem witness_IngressAndWireLoseNothing :
    (linked [0xAA, 0, 0]).agrees = true ∧
    (∃ e', (linked [0xAA, 0, 0]).move (.deliver 3) = .next e') ∧
    (pairOf [0xAA, 0] [7]).right.transport.session = true ∧
    (pairOf [0xAA, 0] [7]).left.transport.session = true ∧
    2 ≤ (pairOf [0xAA, 0] [7]).toRight.bytes.length ∧ 1 ≤ (pairOf [0xAA, 0] [7]).toLeft.bytes.length ∧
    (pairOf [0xAA, 0] [7]).toRight.bytes.length < 3 ∧ (pairOf [0xAA, 0] [7]).toLeft.bytes.length < 2 ∧
    halfUp.right.transport.session = false ∧ 1 ≤ halfUp.toRight.stale ∧ halfUp.toRight.stale < 2 ∧
    halfUp.mirror.left.transport.session = false ∧ 1 ≤ halfUp.mirror.toLeft.stale := by
  refine ⟨by decide, ⟨_, rfl⟩, ?_⟩
  decide
theorem witness_PairStreamsCarryTheTxItems :
    (∃ e, halfUp.left.move (.app (.txTarget 1 2)) = .next e) ∧
    (∃ p', halfUp.move (.left (.app (.txTarget 1 2))) = .next p') ∧
    (∃ p', (pairOf [] [1]).move (.left .tpDown) = .next p' ∧
      (pairOf [] [1]).left.transport.session = true ∧ p'.left.transport.session = false) ∧
    ∃ p', Pair.run [.left (.app (.txTarget 1 2)), .loseRight 1, .right .tpUp, .carryRight 3] halfUp =
      .next p' :=
  ⟨⟨_, rfl⟩, ⟨_, rfl⟩, ⟨_, rfl, by decide, by decide⟩, _, rfl⟩
theorem witness_PairStreamsCarryTheTxItems_right :
    (∃ e, halfUp.mirror.right.move (.app (.txTarget 1 2)) = .next e) ∧
    (∃ p', halfUp.mirror.move (.right (.app (.txTarget 1 2))) = .next p') ∧
    (∃ p', (pairOf [1] []).move (.right .tpDown) = .next p' ∧
      (pairOf [1] []).right.transport.session = true ∧ p'.right.transport.session = false) ∧
    ∃ p', Pair.run [.right (.app (.txTarget 1 2)), .loseLeft 1, .left .tpUp, .carryLeft 3]
      halfUp.mirror = .next p' :=
  ⟨⟨_, rfl⟩, ⟨_, rfl⟩, ⟨_, rfl, by decide, by decide⟩, _, rfl⟩

/-! ## Two endpoints (R64, R243) -/

/-- What the left end wrote before the right end's TP_UP still reaches it. -/
theorem test_pair_bytes_before_peer_tpUp :
    ingresses (Pair.run [.right .tpUp, .carryRight 2] halfUp) = some ([], [0xAA, 0]) := by decide
/-- The left end closes; what it wrote before still reaches the right end, whose session goes on. -/
theorem test_pair_bytes_before_close :
    ingresses (Pair.run [.left (.app .disconnectReq), .carryRight 1] (pairOf [0xAA] [0x55])) =
      some ([], [0xAA]) := by decide
/-- The left end is up while the right end's attempt fails; both retry: what the left end then writes
reaches the right end. -/
theorem test_pair_meets_after_a_failed_attempt :
    ingresses (Pair.run
      [.loseRight 1, .right .tpDown, .right .tick, .right .tick, .right .tick, .right .tpUp,
        .carryRight 1, .left .tpDown, .left .tick, .left .tick, .left .tick, .left .tpUp,
        .left (.app (.txRaw 0 [])), .carryRight 4] halfUp) = some ([], [0, 0xAA, 0, 0, 0x55]) := by
  decide
/-- Each end's second session gets what the other end wrote in its first: each stream in its own order. -/
theorem test_pair_directions_cross :
    ingresses (Pair.run
      [.right .tpUp, .right (.app (.txRaw 1 [])), .right .tpDown, .right .tick, .right .tick, .right .tick,
        .right .tpUp, .carryRight 2, .left .tpDown, .left .tick, .left .tick, .left .tick,
        .left .tpUp, .carryLeft 4] halfUp) = some ([0xAA, 1, 0, 0x55], [0xAA, 0]) := by decide
/-- The left end stays in its session while the right end reads, breaks, retries and writes: the left end
gets what it writes. -/
theorem test_pair_one_end_reconnects :
    ingresses (Pair.run
      [.right .tpUp, .carryRight 2, .right .tpDown, .right .tick, .right .tick, .right .tick, .right .tpUp,
        .right (.app (.txRaw 1 [])), .carryLeft 4] halfUp) = some ([0xAA, 1, 0, 0x55], []) := by decide
/-- No byte in flight is lost in a session, nor one written after the last session was left (E3). -/
theorem test_pair_loses_no_byte_of_a_session :
    refusalOf ((pairOf [1] []).move (.loseRight 1)) = some (.environmentDuty 3) ∧
    refusalOf (halfUp.move (.loseRight 2)) = some (.environmentDuty 3) := by decide

end Sys2Proof.Machine.Tests
end

section
/-! PROOFS. The scope of the model (00_scope.md): the tabled parameters, and what a step takes from the
event port. -/

namespace Sys2Proof.Machine

/-! ### The parameters (R6, R7) -/

/-- The kinds and payload lengths of this hardware are the tabled ones (R74). -/
@[simp] theorem framesTabled_hardware (cap chunk depth dur : Nat) (tgt : TransportTarget) :
    (Config.hardware cap chunk depth dur tgt).framesTabled = true :=
  (framesTabled_iff _).2 ⟨rfl, rfl, rfl, rfl, rfl, rfl, rfl, rfl⟩

/-- With the tabled numbers every known kind is told from the others, and its fields fill its payload
exactly (R74 to R78). -/
theorem hasKind_of_framesTabled {c : Config} (h : c.framesTabled = true) (k : FrameKind) :
    c.hasKind k = true := by
  obtain ⟨hb, mv, ct, tg, lhb, lmv, lct, ltg⟩ := (framesTabled_iff c).1 h
  cases k <;>
    simp [Config.hasKind, Config.kindOf, Config.kindCode, Config.kindLen, FrameKind.fieldBytes,
      hb, mv, ct, tg, lhb, lmv, lct, ltg]

/-- With the tabled kinds and lengths, a configuration is in range when its other parameters are (R7; log
entry 4). -/
theorem wf_iff_of_framesTabled {c : Config} (h : c.framesTabled = true) :
    c.wf = true ↔ 1 ≤ c.hbPeriod ∧ 1 ≤ c.retryPeriod ∧ 1 ≤ c.rxCap ∧ c.chunkMax ≤ 65535 ∧
      c.sof ≠ c.eof ∧ c.maxPayload ≤ 255 ∧ c.hdrLen = 3 ∧ c.minFrame = c.hdrLen + 1 := by
  simp [Config.wf, hasKind_of_framesTabled h, and_assoc]

/-- Of this hardware's configuration only the two bounded OPEN parameters can be out of range (R7). -/
theorem wf_hardware_iff (cap chunk depth dur : Nat) (tgt : TransportTarget) :
    (Config.hardware cap chunk depth dur tgt).wf = true ↔ 1 ≤ cap ∧ chunk ≤ 65535 := by
  rw [wf_iff_of_framesTabled (framesTabled_hardware cap chunk depth dur tgt)]
  simp [Config.hardware]

/-- Settles O1: the tabled values and codes are read off the definitions; that the configuration is in
range is `wf_hardware_iff`. -/
theorem parametersAndCodesAreTheTabledOnes : Obligations.ParametersAndCodesAreTheTabledOnes := by
  intro cap chunk depth dur tgt c
  have hwf : 1 ≤ cap → chunk ≤ 65535 → c.wf = true := fun hcap hchunk =>
    (wf_hardware_iff cap chunk depth dur tgt).2 ⟨hcap, hchunk⟩
  have htabled : c.framesTabled = true := framesTabled_hardware cap chunk depth dur tgt
  refine ⟨rfl, rfl, rfl, rfl, rfl, rfl, rfl, rfl, rfl, rfl, rfl, rfl, rfl, rfl, rfl,
    rfl, rfl, rfl, rfl, rfl, rfl, rfl, rfl, htabled, hwf, ?_⟩
  decide

/-! ### A step at the event port (R12, R216) -/

/-- A decoded event is fetched with the bytes behind it. -/
theorem fetch_of_decodeEvent {s : State} {i : Instr} {rest : List Byte}
    (h : decodeEvent s.cfg s.port = .ok (i, rest)) : fetch s = .event i rest := by
  simp [fetch, h]

/-- An empty port is idle. -/
theorem fetch_of_port_nil {s : State} (h : s.port = []) : fetch s = .idle := by
  simp [fetch, h, decodeEvent]

/-- The step of a decoded event is its execution on the state with its word taken (R12, R208). -/
theorem step_of_decodeEvent {s : State} {i : Instr} {rest : List Byte}
    (h : decodeEvent s.cfg s.port = .ok (i, rest)) : step s = exec i { s with port := rest } := by
  simp [step, fetch_of_decodeEvent h]

/-- The step of an idle block holds its state (R216). -/
theorem step_of_port_nil {s : State} (h : s.port = []) : step s = .next s := by
  simp [step, fetch_of_port_nil h]

/-- Settles O50: its two clauses are the two lemmas about `step`. -/
theorem stepRunsTheEventAtThePort : Obligations.StepRunsTheEventAtThePort :=
  fun _ => ⟨fun _ _ h => step_of_decodeEvent h, fun h => step_of_port_nil h⟩

end Sys2Proof.Machine
end

section
/-! PROOFS. The reassembler's loop at its end (41_reassembler.md R127), and all that an RX_CHUNK writes
(R120, R147). -/

namespace Sys2Proof.Machine

/-! ### What is left in the buffer -/

/-- An empty buffer is parked: the loop's guard is at least one byte (R122). -/
theorem parked_nil {c : Config} (hm : 3 ≤ c.minFrame) : parked c [] = true := by
  have : 0 < c.minFrame := by omega
  simp [parked, this]

/-- A parked buffer holds at most 258 bytes: fewer than the longest declared total (R36 I2, R127). -/
theorem length_le_of_parked {c : Config} {buf : List Byte} (hm : c.minFrame ≤ 259)
    (h : parked c buf = true) : buf.length ≤ 258 := by
  simp only [parked, Bool.or_eq_true, Bool.and_eq_true, decide_eq_true_eq] at h
  rcases h with hshort | ⟨_, hwait⟩
  · omega
  · split at hwait
    · rename_i len _
      have hlt := of_decide_eq_true hwait
      have hlen := len.isLt
      simp only [frameTotal] at hlt
      omega
    · cases hwait

/-- A pass stops only on a parked buffer (R122, R124). -/
theorem parked_of_nextPass_stop {s : State} (hm : 3 ≤ s.cfg.minFrame)
    (h : nextPass s = .ok .stop) : parked s.cfg s.rxbuf = true := by
  by_cases hs : s.rxbuf.length < s.cfg.minFrame
  · simp [parked, hs]
  · obtain ⟨b0, kind, len, body, hb⟩ := long_buffer_cases s.rxbuf (by omega)
    rw [nextPass_long s b0 kind len body hb hs] at h
    split at h
    · cases h
    · rename_i hsof
      split at h
      · rename_i hwait
        have htotal : body.length + 3 < frameTotal len := by simp only [frameTotal]; omega
        simp [parked, hb, not_not.mp hsof, htotal]
      · split at h <;> cases h

/-- With as many passes as bytes the loop ends parked (R127). -/
theorem reassembleFor_parked {n : Nat} {s t : State} (hm : 3 ≤ s.cfg.minFrame)
    (hn : s.rxbuf.length ≤ n) (h : reassembleFor n s = .ok t) : parked t.cfg t.rxbuf = true := by
  induction n generalizing s with
  | zero =>
    cases h
    rw [List.length_eq_zero_iff.mp (Nat.le_zero.mp hn)]
    exact parked_nil hm
  | succ n ih =>
    simp only [reassembleFor] at h
    split at h
    · cases h
    · cases h
      exact parked_of_nextPass_stop hm ‹_›
    · exact ih (s := s.bufDrop 1) hm (by simp; omega) h
    · rename_i kind payload total hpass
      obtain ⟨_, _, htotal, _⟩ := nextPass_yield hpass hm
      exact ih (s := yieldFrame kind payload total s) (by simpa using hm) (by simp; omega) h

/-- The whole loop ends parked (R127). -/
theorem reassemble_parked {s t : State} (hm : 3 ≤ s.cfg.minFrame) (h : reassemble s = .ok t) :
    parked t.cfg t.rxbuf = true := reassembleFor_parked hm le_rfl h

/-! ### What an RX_CHUNK writes -/

/-- The loop only appends to OUT (R147). -/
theorem reassembleFor_out_grows {n : Nat} {s t : State} (h : reassembleFor n s = .ok t) :
    s.out <+: t.out :=
  reassembleFor_induct (R := fun s t => s.out <+: t.out) (fun _ => ⟨[], List.append_nil _⟩)
    (fun h1 h2 => h1.trans h2) (fun _ _ => ⟨[], List.append_nil _⟩)
    (fun s k p n _ => by simp [yieldFrame_eq]) n s t h

/-- The append, its overflow check and the loop write the buffer, OUT and, to 0, `miss_cnt` (R120, R121,
R147). -/
theorem reassemble_receive_eq {d : List Byte} {s t : State} (h : reassemble (receive d s) = .ok t) :
    ∃ buf miss items, t = { s with rxbuf := buf, missCnt := miss, out := s.out ++ items } ∧
      (miss = s.missCnt ∨ miss = 0) := by
  obtain ⟨hlink, hhb, hrt, hfault, hcfg, hport, hmiss⟩ := reassembleFor_frame _ _ _ h
  obtain ⟨items, hout⟩ := reassembleFor_out_grows h
  refine ⟨t.rxbuf, t.missCnt, items, ?_⟩
  rcases receive_cases d s with ⟨_, hr⟩ | ⟨_, hr⟩
  all_goals
    simp only [hr, State.bufClear, State.bufAppend] at hlink hhb hrt hfault hcfg hport hmiss hout
    refine ⟨?_, hmiss⟩
    rw [hout, ← hlink, ← hhb, ← hrt, ← hfault, ← hcfg, ← hport]

/-- All that an RX_CHUNK that completes can do, for every configuration (R120). -/
theorem execRxChunk_next {d : List Byte} {s t : State} (h : execRxChunk d s = .next t) :
    (s.linkState ≠ .connected ∧ t = s) ∨
    (s.linkState = .connected ∧ reassemble (receive d s) = .ok t) := by
  unfold execRxChunk at h
  split at h
  · cases h
    exact .inl ⟨‹_›, rfl⟩
  · rename_i hc
    split at h
    · cases h
      exact .inr ⟨not_not.mp hc, ‹_›⟩
    · cases h

end Sys2Proof.Machine
end

section
/-! PROOFS. All that an instruction which completes can do, said once: the cases of `Effect`, each with its
condition and its whole next state, and `exec_effect`. -/

namespace Sys2Proof.Machine

/-- The kind and the payload that a TX event hands to `TxSend` (R107 to R110). -/
def txPart (c : Config) : Instr → Option (Byte × List Byte)
  | .txRaw kind payload => some (kind, payload)
  | .txMove f l r => some (c.kindMove, wrI16 f ++ wrI16 l ++ wrI16 r)
  | .txControl p q mode =>
      some (c.kindControl, [flagByte (readFlag p), flagByte (readFlag q), mode, 0x00])
  | .txTarget x y => some (c.kindTarget, wrI16 x ++ wrI16 y)
  | .connectReq | .disconnectReq | .tpUp | .tpDown | .tick | .rxChunk _ | .reservedEv _ | .heartbeat
  | .move _ _ _ | .control _ _ _ _ | .target _ _ | .unassignedKind _ _
  | .malformedKnownKind _ _ => none

/-- A TX event is `TxSend` of its part (R107 to R110). -/
theorem exec_of_txPart {i : Instr} {s : State} {kind : Byte} {payload : List Byte}
    (h : txPart s.cfg i = some (kind, payload)) : exec i s = .next (txSend kind payload s) := by
  cases i with
  | txRaw | txMove | txControl | txTarget => cases h; rfl
  | _ => cases h

/-- What instruction `i` can do to a state `s`: the rules' cases, one constructor each. -/
inductive Effect (s : State) : Instr → State → Prop where
  /-- Nothing changes. -/
  | unchanged (i : Instr) : Effect s i s
  /-- CONNECT_REQ in DISCONNECTED (R160). -/
  | connect (hlink : s.linkState = .disconnected) :
      Effect s .connectReq { s with
        linkState := .connecting
        out := s.out ++ [.tpc .connect, .status false .connecting .connectRequested] }
  /-- DISCONNECT_REQ of a session or an attempt (R161). -/
  | close (hlink : s.linkState = .connected ∨ s.linkState = .connecting) :
      Effect s .disconnectReq { s with
        linkState := .disconnected
        out := s.out ++ [.tpc .disconnect, .status false .disconnected .userDisconnect] }
  /-- DISCONNECT_REQ between two attempts (R161). -/
  | giveUp (hlink : s.linkState = .reconnecting) :
      Effect s .disconnectReq { s with
        linkState := .disconnected
        out := s.out ++ [.status false .disconnected .userDisconnect] }
  /-- TP_UP of an attempt (R162, R163). -/
  | up (hlink : s.linkState = .connecting) :
      Effect s .tpUp { s with
        linkState := .connected
        rxbuf := []
        missCnt := 0
        hbDiv := 0
        out := s.out ++ [.status true .connected .connected] }
  /-- TP_DOWN of a session or an attempt (R164, R165). -/
  | down (reason : Reason)
      (hlink : (s.linkState = .connected ∧ reason = .transportLost) ∨
        (s.linkState = .connecting ∧ reason = .connectFailed)) :
      Effect s .tpDown { s with
        linkState := .reconnecting
        rtDiv := 0
        out := s.out ++ [.status false .reconnecting reason] }
  /-- TICK in CONNECTED below the period (R170). -/
  | phase (hlink : s.linkState = .connected) (hphase : s.hbDiv + 1 ≠ s.cfg.hbPeriod) :
      Effect s .tick { s with hbDiv := s.hbDiv + 1 }
  /-- TICK at the period, the misses within the limit (R171). -/
  | probe (hlink : s.linkState = .connected) (hphase : s.hbDiv + 1 = s.cfg.hbPeriod)
      (hmiss : s.missCnt + 1 ≤ s.cfg.hbMissLimit) :
      Effect s .tick { s with
        hbDiv := 0
        missCnt := s.missCnt + 1
        out := s.out ++ [.tx (frameBytes s.cfg s.cfg.kindHeartbeat [])] }
  /-- TICK at the period, the misses over the limit (R171). -/
  | timeout (hlink : s.linkState = .connected) (hphase : s.hbDiv + 1 = s.cfg.hbPeriod)
      (hmiss : s.cfg.hbMissLimit < s.missCnt + 1) :
      Effect s .tick { s with
        linkState := .reconnecting
        hbDiv := 0
        missCnt := s.missCnt + 1
        rtDiv := 0
        out := s.out ++ [.tpc .abort, .status false .reconnecting .heartbeatTimeout] }
  /-- TICK in RECONNECTING below the period (R172). -/
  | wait (hlink : s.linkState = .reconnecting) (hphase : s.rtDiv + 1 ≠ s.cfg.retryPeriod) :
      Effect s .tick { s with rtDiv := s.rtDiv + 1 }
  /-- TICK in RECONNECTING at the period (R172). -/
  | retry (hlink : s.linkState = .reconnecting) (hphase : s.rtDiv + 1 = s.cfg.retryPeriod) :
      Effect s .tick { s with
        linkState := .connecting
        rtDiv := 0
        out := s.out ++ [.tpc .connect, .status false .connecting .retry] }
  /-- RX_CHUNK in CONNECTED: what the loop gives (R120, R147). -/
  | chunk (d buf : List Byte) (miss : Nat) (items : List OutItem) (hlink : s.linkState = .connected)
      (hloop : reassemble (receive d s) =
        .ok { s with rxbuf := buf, missCnt := miss, out := s.out ++ items })
      (hmiss : miss = s.missCnt ∨ miss = 0) :
      Effect s (.rxChunk d) { s with rxbuf := buf, missCnt := miss, out := s.out ++ items }
  /-- A TX event whose payload is too large (R111, R202). -/
  | raise (i : Instr) (kind : Byte) (payload : List Byte) (htx : txPart s.cfg i = some (kind, payload))
      (hlen : s.cfg.maxPayload < payload.length) :
      Effect s i { s with faultPtl := true, out := s.out ++ [.err .payloadTooLarge] }
  /-- A TX event in CONNECTED (R111). -/
  | send (i : Instr) (kind : Byte) (payload : List Byte) (htx : txPart s.cfg i = some (kind, payload))
      (hlen : payload.length ≤ s.cfg.maxPayload) (hlink : s.linkState = .connected) :
      Effect s i { s with out := s.out ++ [.tx (frameBytes s.cfg kind payload)] }
  /-- A received Heartbeat (R142). -/
  | echo :
      Effect s .heartbeat { s with
        missCnt := 0
        out := s.out ++ [.tx (frameBytes s.cfg s.cfg.kindHeartbeat [])] }
  /-- A received command (R143 to R145). -/
  | command (i : Instr) (c : Command) (hframe : i.isFrame = true) :
      Effect s i { s with out := s.out ++ [.cmd c] }

/-! ### Each instruction has one of the effects -/

theorem execConnectReq_effect {s t : State} (h : execConnectReq s = .next t) :
    Effect s .connectReq t := by
  unfold execConnectReq at h
  split at h
  · cases h
    rw [enterConnecting_eq]
    exact .connect ‹_›
  all_goals
    cases h
    exact .unchanged _

theorem execDisconnectReq_effect {s t : State} (h : execDisconnectReq s = .next t) :
    Effect s .disconnectReq t := by
  unfold execDisconnectReq at h
  split at h
  · cases h
    rw [enterDisconnected_eq]
    exact .close (.inl ‹_›)
  · cases h
    rw [enterDisconnected_eq]
    exact .close (.inr ‹_›)
  · cases h
    rw [enterDisconnected_eq]
    exact .giveUp ‹_›
  · cases h
    exact .unchanged _

theorem execTpUp_effect {s t : State} (h : execTpUp s = .next t) : Effect s .tpUp t := by
  unfold execTpUp at h
  split at h
  · cases h
    rw [enterConnected_eq]
    exact .up ‹_›
  all_goals
    cases h
    exact .unchanged _

theorem execTpDown_effect {s t : State} (h : execTpDown s = .next t) : Effect s .tpDown t := by
  unfold execTpDown at h
  split at h
  · cases h
    rw [enterReconnecting_eq]
    exact .down _ (.inl ⟨‹_›, rfl⟩)
  · cases h
    rw [enterReconnecting_eq]
    exact .down _ (.inr ⟨‹_›, rfl⟩)
  all_goals
    cases h
    exact .unchanged _

/-- A TICK in CONNECTED: the phase, then the miss, are counted and compared (R170, R171). -/
theorem connectedTick_effect {s : State} (hlink : s.linkState = .connected) :
    Effect s .tick (connectedTick s) := by
  by_cases hphase : s.hbDiv + 1 = s.cfg.hbPeriod
  · by_cases hmiss : s.cfg.hbMissLimit < s.missCnt + 1
    · have h := Effect.timeout hlink hphase hmiss
      simpa [connectedTick, heartbeatTick, hphase, hmiss, enterReconnecting_eq, State.emit] using h
    · have h := Effect.probe hlink hphase (Nat.not_lt.mp hmiss)
      simpa [connectedTick, heartbeatTick, hphase, hmiss, State.emitHeartbeat_eq, State.emit] using h
  · have h := Effect.phase hlink hphase
    simpa [connectedTick, hphase] using h

/-- A TICK in RECONNECTING (R172). -/
theorem reconnectingTick_effect {s : State} (hlink : s.linkState = .reconnecting) :
    Effect s .tick (reconnectingTick s) := by
  by_cases hphase : s.rtDiv + 1 = s.cfg.retryPeriod
  · have h := Effect.retry hlink hphase
    simpa [reconnectingTick, hphase, enterConnecting_eq] using h
  · have h := Effect.wait hlink hphase
    simpa [reconnectingTick, hphase] using h

theorem execTick_effect {s t : State} (h : execTick s = .next t) : Effect s .tick t := by
  unfold execTick at h
  split at h
  · cases h
    exact connectedTick_effect ‹_›
  · cases h
    exact reconnectingTick_effect ‹_›
  all_goals
    cases h
    exact .unchanged _

theorem execRxChunk_effect {d : List Byte} {s t : State} (h : execRxChunk d s = .next t) :
    Effect s (.rxChunk d) t := by
  rcases execRxChunk_next h with ⟨_, rfl⟩ | ⟨hlink, hloop⟩
  · exact .unchanged _
  · obtain ⟨buf, miss, items, rfl, hmiss⟩ := reassemble_receive_eq hloop
    exact .chunk d buf miss items hlink hloop hmiss

/-- A TX event raises, is silent, or sends (R111). -/
theorem txSend_effect {i : Instr} {s : State} {kind : Byte} {payload : List Byte}
    (h : txPart s.cfg i = some (kind, payload)) : Effect s i (txSend kind payload s) := by
  rcases txSend_cases kind payload s with ⟨hlen, heq⟩ | ⟨_, _, heq⟩ | ⟨hlen, hlink, heq⟩
  all_goals rw [heq]
  · exact .raise i kind payload h hlen
  · exact .unchanged i
  · exact .send i kind payload h hlen hlink

/-- A TX event's execution has one of those effects. -/
theorem exec_effect_of_txPart {i : Instr} {s t : State} {kind : Byte} {payload : List Byte}
    (htx : txPart s.cfg i = some (kind, payload)) (h : exec i s = .next t) : Effect s i t := by
  rw [exec_of_txPart htx] at h
  cases h
  exact txSend_effect htx

/-- Every instruction that completes has one of the effects. -/
theorem exec_effect {i : Instr} {s t : State} (h : exec i s = .next t) : Effect s i t := by
  cases i with
  | connectReq => exact execConnectReq_effect h
  | disconnectReq => exact execDisconnectReq_effect h
  | tpUp => exact execTpUp_effect h
  | tpDown => exact execTpDown_effect h
  | tick => exact execTick_effect h
  | rxChunk d => exact execRxChunk_effect h
  | txRaw | txMove | txControl | txTarget => exact exec_effect_of_txPart rfl h
  | reservedEv => cases h
  | heartbeat =>
    cases h
    rw [dispHeartbeat, State.emitHeartbeat_eq]
    exact .echo
  | move | control | target =>
    cases h
    exact .command _ _ rfl
  | unassignedKind | malformedKnownKind =>
    cases h
    exact .unchanged _

/-- All that a step that completes can do: hold, or take an event from the port and execute it (R12,
R216). -/
theorem step_next_cases {s t : State} (h : step s = .next t) :
    t = s ∨ ∃ i rest, exec i { s with port := rest } = .next t := by
  unfold step at h
  split at h
  · cases h
    exact .inl rfl
  · cases h
  · exact .inr ⟨_, _, h⟩

end Sys2Proof.Machine
end

section
/-! PROOFS. The writers of each field of the state (10_state.md R20): each lemma names the effects that
write the field, and the others keep it. -/

namespace Sys2Proof.Machine

section
variable {i : Instr} {s t : State}

theorem Effect.cfg_eq (h : Effect s i t) : t.cfg = s.cfg := by cases h <;> rfl

theorem Effect.port_eq (h : Effect s i t) : t.port = s.port := by cases h <;> rfl

/-- OUT only grows (R11). -/
theorem Effect.out_grows (h : Effect s i t) : ∃ items, t.out = s.out ++ items := by
  cases h with
  | unchanged | phase | wait => exact ⟨[], (List.append_nil _).symm⟩
  | _ => exact ⟨_, rfl⟩

/-- The buffer's writers: RX_CHUNK and TP_UP (R60). -/
theorem Effect.rxbuf_eq (h : Effect s i t) (hchunk : ∀ d, i ≠ .rxChunk d) (hup : i ≠ .tpUp) :
    t.rxbuf = s.rxbuf := by
  cases h with
  | chunk d => exact absurd rfl (hchunk d)
  | up => exact absurd rfl hup
  | _ => rfl

theorem Effect.hbDiv_eq (h : Effect s i t) (htick : i ≠ .tick) (hup : i ≠ .tpUp) :
    t.hbDiv = s.hbDiv := by
  cases h with
  | phase | probe | timeout => exact absurd rfl htick
  | up => exact absurd rfl hup
  | _ => rfl

theorem Effect.rtDiv_eq (h : Effect s i t) (htick : i ≠ .tick) (hdown : i ≠ .tpDown) :
    t.rtDiv = s.rtDiv := by
  cases h with
  | timeout | wait | retry => exact absurd rfl htick
  | down => exact absurd rfl hdown
  | _ => rfl

theorem Effect.missCnt_eq (h : Effect s i t) (htick : i ≠ .tick) (hup : i ≠ .tpUp)
    (hbeat : i ≠ .heartbeat) (hchunk : ∀ d, i ≠ .rxChunk d) : t.missCnt = s.missCnt := by
  cases h with
  | probe | timeout => exact absurd rfl htick
  | up => exact absurd rfl hup
  | echo => exact absurd rfl hbeat
  | chunk d => exact absurd rfl (hchunk d)
  | _ => rfl

theorem Effect.linkState_eq (h : Effect s i t) (hreq : i ≠ .connectReq) (hdis : i ≠ .disconnectReq)
    (hup : i ≠ .tpUp) (hdown : i ≠ .tpDown) (htick : i ≠ .tick) : t.linkState = s.linkState := by
  cases h with
  | connect => exact absurd rfl hreq
  | close | giveUp => exact absurd rfl hdis
  | up => exact absurd rfl hup
  | down => exact absurd rfl hdown
  | timeout | retry => exact absurd rfl htick
  | _ => rfl

/-- `fault_ptl` is written by TX events only (R27, R202). -/
theorem Effect.faultPtl_eq (h : Effect s i t) (htx : txPart s.cfg i = none) :
    t.faultPtl = s.faultPtl := by
  cases h with
  | raise _ _ _ hsome => rw [htx] at hsome; cases hsome
  | _ => rfl

/-- No effect clears `fault_ptl` (R36 I6). -/
theorem Effect.faultPtl_sticky (h : Effect s i t) (hf : s.faultPtl = true) : t.faultPtl = true := by
  cases h with
  | raise => rfl
  | _ => exact hf

/-- The instructions with a part for `TxSend` are the four TX events. -/
theorem txPart_eq_none {c : Config} (hraw : ∀ k p, i ≠ .txRaw k p)
    (hmove : ∀ f l r, i ≠ .txMove f l r) (hcontrol : ∀ p q m, i ≠ .txControl p q m)
    (htarget : ∀ x y, i ≠ .txTarget x y) : txPart c i = none := by
  cases i with
  | txRaw k p => exact absurd rfl (hraw k p)
  | txMove f l r => exact absurd rfl (hmove f l r)
  | txControl p q m => exact absurd rfl (hcontrol p q m)
  | txTarget x y => exact absurd rfl (htarget x y)
  | _ => rfl

/-- Equal buffers read alike (R50). -/
theorem readByte_congr (h : t.rxbuf = s.rxbuf) (n : Nat) : t.readByte n = s.readByte n := by
  simp [State.readByte, h]

end

/-- Settles O54: each clause is the lemma about its field, at the effect the instruction has. -/
theorem eachFieldHasItsWriters : Obligations.EachFieldHasItsWriters := by
  intro i s t h
  have heff := exec_effect h
  exact ⟨heff.cfg_eq, heff.port_eq, heff.out_grows,
    fun hchunk hup => readByte_congr (heff.rxbuf_eq hchunk hup), heff.hbDiv_eq, heff.rtDiv_eq,
    heff.missCnt_eq, heff.linkState_eq,
    fun hraw hmove hcontrol htarget =>
      heff.faultPtl_eq (txPart_eq_none hraw hmove hcontrol htarget)⟩

end Sys2Proof.Machine
end

section
/-! PROOFS. The invariants of 10_state.md R36: what they say, that reset has them and every effect keeps
them. -/

namespace Sys2Proof.Machine

/-- The invariants I1 to I5 of R36 by name. -/
structure State.Invariants (s : State) : Prop where
  wf : s.cfg.wf = true
  fits : Memory.wf s.cfg s.rxbuf = true
  parked : parked s.cfg s.rxbuf = true
  hbDiv_lt : s.hbDiv < s.cfg.hbPeriod
  rtDiv_lt : s.rtDiv < s.cfg.retryPeriod
  missCnt_le : s.missCnt ≤ s.cfg.hbMissLimit + 1
  missCnt_le_connected : s.linkState = .connected → s.missCnt ≤ s.cfg.hbMissLimit

/-- They are what the model's check decides. -/
theorem State.inv_iff (s : State) : s.inv = true ↔ s.Invariants := by
  simp only [State.inv, State.bufferFits, State.phasesFit, State.missesFit, Bool.and_eq_true,
    Bool.or_eq_true, Bool.not_eq_true', decide_eq_true_eq, decide_eq_false_iff_not,
    ← imp_iff_not_or]
  constructor
  · rintro ⟨⟨⟨⟨hwf, hfits⟩, hparked⟩, hhb, hrt⟩, hmiss, hconn⟩
    exact ⟨hwf, hfits, hparked, hhb, hrt, hmiss, hconn⟩
  · rintro ⟨hwf, hfits, hparked, hhb, hrt, hmiss, hconn⟩
    exact ⟨⟨⟨⟨hwf, hfits⟩, hparked⟩, hhb, hrt⟩, hmiss, hconn⟩

/-- The periods of a configuration in range are not 0 (R7). -/
theorem wf_periods_pos {c : Config} (h : c.wf = true) : 0 < c.hbPeriod ∧ 0 < c.retryPeriod := by
  simp only [Config.wf, Bool.and_eq_true, decide_eq_true_eq] at h
  omega

/-- The guard of the loop lets in no fewer than three bytes in range (R7). -/
theorem three_le_minFrame {c : Config} (h : c.wf = true) : 3 ≤ c.minFrame := by
  have := wf_minFrame h
  omega

/-- Reset satisfies the invariants (R36, R37). -/
theorem resetWith_invariants {c : Config} (h : c.wf = true) : (State.resetWith c).Invariants where
  wf := h
  fits := wf_reset c
  parked := parked_nil (three_le_minFrame h)
  hbDiv_lt := (wf_periods_pos h).1
  rtDiv_lt := (wf_periods_pos h).2
  missCnt_le := Nat.zero_le _
  missCnt_le_connected := fun _ => Nat.zero_le _

namespace State.Invariants

variable {s t : State}

/-- They do not speak of the waiting events. -/
theorem with_port (h : s.Invariants) (rest : List Byte) : State.Invariants { s with port := rest } :=
  { h with }

/-- They leave at most 258 bytes in the buffer (R36 I2). -/
theorem rxbuf_length_le (h : s.Invariants) : s.rxbuf.length ≤ 258 := by
  have hmin := wf_minFrame h.wf
  exact length_le_of_parked (by omega) h.parked

/-- An RX_CHUNK's append, overflow check and loop keep them: the buffer ends within its capacity and
parked, and `miss_cnt` stays or is cleared (R121, R127, R142). -/
theorem chunk (h : s.Invariants) {d buf : List Byte} {miss : Nat} {items : List OutItem}
    (hloop : reassemble (receive d s) =
      .ok { s with rxbuf := buf, missCnt := miss, out := s.out ++ items })
    (hmiss : miss = s.missCnt ∨ miss = 0) :
    State.Invariants { s with rxbuf := buf, missCnt := miss, out := s.out ++ items } :=
  have hle : miss ≤ s.missCnt := by omega
  { h with
    fits := wf_reassembleFor _ _ _ hloop (by simpa using wf_receive d s)
    parked := reassemble_parked (by simpa using three_le_minFrame h.wf) hloop
    missCnt_le := hle.trans h.missCnt_le
    missCnt_le_connected := fun hlink => hle.trans (h.missCnt_le_connected hlink) }

/-- Every effect keeps the invariants: what a case does not name is as before. -/
theorem of_effect (h : s.Invariants) {i : Instr} (heff : Effect s i t) : t.Invariants := by
  obtain ⟨hhb, hrt⟩ := wf_periods_pos h.wf
  cases heff with
  | unchanged | raise | send | command => exact { h with }
  | connect | close | giveUp => exact { h with missCnt_le_connected := nofun }
  | up =>
    exact { h with
      fits := wf_bufClear s
      parked := parked_nil (three_le_minFrame h.wf)
      hbDiv_lt := hhb
      missCnt_le := Nat.zero_le _
      missCnt_le_connected := fun _ => Nat.zero_le _ }
  | down => exact { h with rtDiv_lt := hrt, missCnt_le_connected := nofun }
  | phase _ hphase => exact { h with hbDiv_lt := Nat.lt_of_le_of_ne h.hbDiv_lt hphase }
  | probe _ _ hmiss =>
    exact { h with
      hbDiv_lt := hhb
      missCnt_le := Nat.le_succ_of_le hmiss
      missCnt_le_connected := fun _ => hmiss }
  | timeout hlink =>
    exact { h with
      hbDiv_lt := hhb
      rtDiv_lt := hrt
      missCnt_le := Nat.succ_le_succ (h.missCnt_le_connected hlink)
      missCnt_le_connected := nofun }
  | wait _ hphase => exact { h with rtDiv_lt := Nat.lt_of_le_of_ne h.rtDiv_lt hphase }
  | retry => exact { h with rtDiv_lt := hrt, missCnt_le_connected := nofun }
  | chunk d buf miss items _ hloop hmiss => exact h.chunk hloop hmiss
  | echo =>
    exact { h with
      missCnt_le := Nat.zero_le _
      missCnt_le_connected := fun _ => Nat.zero_le _ }

/-- Every step keeps the invariants (R36). -/
theorem of_step (h : s.Invariants) (hstep : step s = .next t) : t.Invariants := by
  rcases step_next_cases hstep with rfl | ⟨i, rest, hexec⟩
  · exact h
  · exact (h.with_port rest).of_effect (exec_effect hexec)

end State.Invariants

/-- No step clears `fault_ptl` (R36 I6). -/
theorem step_faultPtl_sticky {s t : State} (h : step s = .next t) (hf : s.faultPtl = true) :
    t.faultPtl = true := by
  rcases step_next_cases h with rfl | ⟨i, rest, hexec⟩
  · exact hf
  · exact (exec_effect hexec).faultPtl_sticky hf

/-- Settles O53: reset has the invariants, and every effect of a step keeps them and the sticky bit. -/
theorem stepKeepsTheInvariants : Obligations.StepKeepsTheInvariants := by
  refine ⟨fun c hc => (State.inv_iff _).2 (resetWith_invariants hc), fun s t hs hstep => ?_⟩
  have ht := ((State.inv_iff s).1 hs).of_step hstep
  exact ⟨(State.inv_iff t).2 ht, step_faultPtl_sticky hstep, ht.rxbuf_length_le⟩

end Sys2Proof.Machine
end

section
/-! PROOFS. The status word (10_state.md R31) and reset (R37, R230). -/

namespace Sys2Proof.Machine

theorem LinkState.code_lt (l : LinkState) : l.code < 4 := by cases l <;> decide

/-- Where `HB_MISS_LIMIT + 1` fits 4 bits, `rxbuf_len` stands from bit 16 (R31). -/
theorem rxLenLow_eq {c : Config} (h : c.hbMissLimit ≤ 14) : rxLenLow c = 16 := by
  have hlog : Nat.log2 (c.hbMissLimit + 1) < 4 := (Nat.log2_lt (by omega)).2 (by omega)
  simp only [rxLenLow, missWidth, bitWidth]
  omega

/-- LSTAT with the standard place of `rxbuf_len` (R31). -/
theorem State.lstat_eq {s : State} (h : s.cfg.hbMissLimit ≤ 14) :
    s.lstat = s.linkState.code + 4 * s.connected.toNat + 8 * s.faultPtl.toNat + 16 * s.missCnt +
      65536 * s.rxbuf.length := by
  simp [State.lstat, rxLenLow_eq h]

/-- The `connected` bit (R29, R31). -/
theorem State.connected_toNat (s : State) :
    s.connected.toNat = if s.linkState = .connected then 1 else 0 := by
  simp [State.connected, LinkState.isConnected, Bool.toNat, Bool.cond_decide]

/-- LSTAT is 0 after reset: every field is (R37). -/
@[simp] theorem lstat_resetWith (c : Config) : (State.resetWith c).lstat = 0 := rfl

/-- Settles O4: with the standard widths LSTAT is a sum of fields, and the invariants keep each within
its own bits. -/
theorem statusWordFieldsReadTheState : Obligations.StatusWordFieldsReadTheState := by
  intro s hs hlimit hcap
  have hinv := (State.inv_iff s).1 hs
  have hcode := s.linkState.code_lt
  have hconn := s.connected.toNat_lt
  have hfault := s.faultPtl.toNat_lt
  have hmiss := hinv.missCnt_le
  have hlen : s.rxbuf.length ≤ s.cfg.rxCap := of_decide_eq_true hinv.fits
  have hptl : (if s.faultPtl = true then 1 else 0) = s.faultPtl.toNat := by
    cases s.faultPtl <;> rfl
  rw [State.lstat_eq hlimit, ← State.connected_toNat, hptl]
  refine ⟨?_, ?_, ?_, ?_, ?_, ?_, ?_, fun _ => rfl⟩ <;> omega

/-- Settles O2: reset does not read the state it is applied in, but for the parameters. -/
theorem resetGivesTheResetValuesInAnyState : Obligations.ResetGivesTheResetValuesInAnyState :=
  fun s => ⟨rfl, rfl, rfl, rfl, rfl, rfl, rfl, rfl, rfl, lstat_resetWith s.cfg,
    fun hwf => (State.inv_iff _).2 (resetWith_invariants hwf), rfl⟩

end Sys2Proof.Machine
end

section
/-! PROOFS. The reassembly buffer's reads (20_memory.md R50), and the streams that bytes go through outside
the block: whole frames in each TX item (R63), the ingress (R59) and the wires of a pair (R64). -/

namespace Sys2Proof.Machine

/-! ### Reads of the buffer (R50) -/

theorem memRead_inside {s : State} {i n : Nat} (h : i + n ≤ s.rxbuf.length) :
    s.memRead i n = .ok ((s.rxbuf.drop i).take n) := if_pos h

theorem memRead_outside {s : State} {i n : Nat} (h : s.rxbuf.length < i + n) :
    s.memRead i n = .error (.bufferReadOutOfRange i n) := if_neg (Nat.not_le.mpr h)

theorem readByte_outside {s : State} {i : Nat} (h : s.rxbuf.length ≤ i) :
    s.readByte i = .error (.bufferReadOutOfRange i 1) := by
  simp [State.readByte, h]

/-- A read after a drop, inside what is left and outside (R10, R50). -/
theorem readByte_bufDrop_eq (s : State) (n i : Nat) :
    (s.bufDrop n).readByte i =
      if n + i < s.rxbuf.length then s.readByte (n + i) else .error (.bufferReadOutOfRange i 1) := by
  split
  · exact readByte_bufDrop s n i ‹_›
  · exact readByte_outside (by rw [State.bufDrop_rxbuf, List.length_drop]; omega)

/-- Settles O30: each clause is the lemma about its operation. -/
theorem bufferReadsAreChecked : Obligations.BufferReadsAreChecked :=
  fun s i n d => ⟨memRead_inside, memRead_outside, readByte_bufAppend s d i, readByte_outside,
    readByte_bufDrop_eq s n i⟩

/-! ### The items of a TX event and of the loop (R63, R147) -/

/-- All that the loop appends to OUT are the items of the frames it yields (R125, R147). -/
theorem reassembleFor_out_eq {n : Nat} {s t : State} (h : reassembleFor n s = .ok t) :
    ∃ fs, t.out = s.out ++ framesItems s.cfg fs := by
  suffices hR : t.cfg = s.cfg ∧ ∃ fs, t.out = s.out ++ framesItems s.cfg fs from hR.2
  refine reassembleFor_induct
    (R := fun s t => t.cfg = s.cfg ∧ ∃ fs, t.out = s.out ++ framesItems s.cfg fs)
    (fun _ => ⟨rfl, [], (List.append_nil _).symm⟩) ?_
    (fun _ _ => ⟨rfl, [], (List.append_nil _).symm⟩) ?_ n s t h
  · rintro a b c ⟨hab, fs, hb⟩ ⟨hbc, gs, hc⟩
    exact ⟨hbc.trans hab, fs ++ gs, by rw [hc, hb, hab, framesItems_append, List.append_assoc]⟩
  · intro s k p n _
    exact ⟨yieldFrame_cfg k p n s, [(k, p)], by simp [yieldFrame_eq, framesItems]⟩

/-- What a completed RX_CHUNK appends to OUT are the items of its frames (R121, R125, R147). -/
theorem newItems_of_reassemble {d : List Byte} {s t : State} (h : reassemble (receive d s) = .ok t) :
    ∃ fs, newItems s t = framesItems s.cfg fs := by
  obtain ⟨fs, hout⟩ := reassembleFor_out_eq h
  have hrecv : (receive d s).out = s.out := by
    rcases receive_cases d s with ⟨_, hr⟩ | ⟨_, hr⟩ <;> rw [hr] <;> rfl
  rw [hrecv, receive_cfg] at hout
  exact ⟨fs, newItems_eq hout⟩

/-- The only TX item of a frame's dispatch is the Heartbeat's echo (R142, R147). -/
theorem tx_mem_dispatchItems {c : Config} {k : Byte} {p w : List Byte}
    (h : .tx w ∈ dispatchItems c k p) : w = frameBytes c c.kindHeartbeat [] := by
  unfold dispatchItems at h
  split at h
  · simpa using h
  all_goals simp at h

/-- The only TX items of the loop are the echoes. -/
theorem tx_mem_framesItems {c : Config} {fs : List (Byte × List Byte)} {w : List Byte}
    (h : .tx w ∈ framesItems c fs) : w = frameBytes c c.kindHeartbeat [] := by
  induction fs with
  | nil => cases h
  | cons f fs ih =>
    simp only [framesItems, frameItems, List.mem_append, List.mem_cons, reduceCtorEq, false_or] at h
    exact h.elim tx_mem_dispatchItems ih

theorem encodeFrame_of_length_le {c : Config} {kind : Byte} {payload : List Byte}
    (h : payload.length ≤ c.maxPayload) : encodeFrame c kind payload = .ok (frameBytes c kind payload) :=
  if_neg (Nat.not_lt.mpr h)

/-- The echo and the probe are frames of `encode` (R100, R142, R171). -/
theorem encodeFrame_heartbeat (c : Config) :
    encodeFrame c c.kindHeartbeat [] = .ok (frameBytes c c.kindHeartbeat []) :=
  encodeFrame_of_length_le (Nat.zero_le _)

/-- The effects of events that send are those of CONNECTED, and each sends whole frames: the TX events
one, the probe one, the loop its echoes (R63, R111, R142, R171). -/
theorem Effect.tx_encoded {i : Instr} {s t : State} {w : List Byte} (heff : Effect s i t)
    (hev : i.isEvent = true) (hw : .tx w ∈ newItems s t) :
    s.linkState = .connected ∧ ∃ kind payload, encodeFrame s.cfg kind payload = .ok w := by
  cases heff with
  | send _ kind payload _ hlen hlink =>
    obtain rfl : w = frameBytes s.cfg kind payload := by simpa [newItems] using hw
    exact ⟨hlink, kind, payload, encodeFrame_of_length_le hlen⟩
  | probe hlink =>
    obtain rfl : w = frameBytes s.cfg s.cfg.kindHeartbeat [] := by simpa [newItems] using hw
    exact ⟨hlink, _, _, encodeFrame_heartbeat s.cfg⟩
  | chunk _ _ _ _ hlink hloop =>
    obtain ⟨fs, hnew⟩ := newItems_of_reassemble hloop
    rw [hnew] at hw
    obtain rfl := tx_mem_framesItems hw
    exact ⟨hlink, _, _, encodeFrame_heartbeat s.cfg⟩
  | echo => cases hev
  | _ => simp [newItems] at hw

/-- Settles O55: it is what the effect of the event sends. -/
theorem everyTxItemIsOneEncodedFrame : Obligations.EveryTxItemIsOneEncodedFrame :=
  fun _ _ _ _ hev h hw => (exec_effect h).tx_encoded hev hw

/-! ### The ingress (R59) -/

/-- The transport does not react to what a frame's dispatch outputs: no TPC item is among it (R147). -/
theorem foldl_react_dispatchItems (c : Config) (k : Byte) (p : List Byte) (tr : Transport) :
    (dispatchItems c k p).foldl Transport.react tr = tr := by
  unfold dispatchItems
  split <;> rfl

/-- Nor to what the loop outputs. -/
theorem foldl_react_framesItems (c : Config) (fs : List (Byte × List Byte)) (tr : Transport) :
    (framesItems c fs).foldl Transport.react tr = tr := by
  induction fs with
  | nil => rfl
  | cons f fs ih =>
    simp only [framesItems, frameItems, List.foldl_append, List.foldl_cons, Transport.react,
      foldl_react_dispatchItems, ih]

/-- An RX_CHUNK in CONNECTED is executed and leaves the transport as it is (R33, R120). -/
theorem Endpoint.take_rxChunk_next {d : List Byte} {e e' : Endpoint}
    (h : e.take (.rxChunk d) = .next e') (hlink : e.core.linkState = .connected) :
    exec (.rxChunk d) e.core = .next e'.core ∧ e'.transport = e.transport := by
  unfold Endpoint.take at h
  split at h
  · rename_i t hexec
    cases h
    rcases execRxChunk_next hexec with ⟨hn, _⟩ | ⟨_, hloop⟩
    · exact absurd hlink hn
    · obtain ⟨fs, hnew⟩ := newItems_of_reassemble hloop
      exact ⟨hexec, by rw [hnew, foldl_react_framesItems]⟩
  · cases h
  · cases h

/-- All that a delivery can do: within a session, the first `n` bytes of the ingress are taken and run as
one RX_CHUNK (R59, E3, E6). -/
theorem Endpoint.deliver_next {n : Nat} {e e' : Endpoint} (h : e.move (.deliver n) = .next e') :
    e.transport.session = true ∧ n ≤ e.transport.ingress.length ∧
      Endpoint.take (.rxChunk (e.transport.ingress.take n))
        { e with transport := { e.transport with ingress := e.transport.ingress.drop n } } =
          .next e' := by
  simp only [Endpoint.move] at h
  split at h
  · cases h
  · rename_i hsession
    split at h
    · rename_i hn
      exact ⟨Bool.eq_true_of_not_eq_false hsession, hn.1, h⟩
    · cases h

/-- In an agreeing endpoint a current session means CONNECTED (R243 E2). -/
theorem Endpoint.connected_of_session {e : Endpoint} (hagree : e.agrees = true)
    (hsession : e.transport.session = true) : e.core.linkState = .connected := by
  simp only [Endpoint.agrees, Bool.and_eq_true, decide_eq_true_eq] at hagree
  obtain ⟨⟨_, hlink⟩, _⟩ := hagree
  exact of_decide_eq_true (hlink ▸ hsession)

/-- A delivery takes the front of the ingress and nothing else of the transport (R59). -/
theorem Endpoint.deliver_takes_front {n : Nat} {e e' : Endpoint} (hagree : e.agrees = true)
    (h : e.move (.deliver n) = .next e') :
    ∃ d t, e.transport.ingress = d ++ e'.transport.ingress ∧ d.length = n ∧
      e.core.linkState = .connected ∧ exec (.rxChunk d) e.core = .next t ∧ e'.core = t := by
  obtain ⟨hsession, hn, htake⟩ := Endpoint.deliver_next h
  have hlink := Endpoint.connected_of_session hagree hsession
  obtain ⟨hexec, htr⟩ := Endpoint.take_rxChunk_next htake hlink
  refine ⟨e.transport.ingress.take n, e'.core, ?_, List.length_take_of_le hn, hlink, hexec, rfl⟩
  rw [htr, List.take_append_drop]

/-! ### The wires of a pair (R64) -/

section
variable {n : Nat} {p : Pair}

/-- Any number of the bytes in flight can be carried to an end with a session (E3). -/
theorem Pair.carry_of_session (hsession : p.right.transport.session = true)
    (hn : n ≤ p.toRight.bytes.length) :
    p.carry n = .next { p with
      right := { p.right with transport := { p.right.transport with
        ingress := p.right.transport.ingress ++ p.toRight.bytes.take n } }
      toRight := p.toRight.drop n } := by
  simp [Pair.carry, Endpoint.move, hsession, hn]

theorem Pair.carry_refused (h : p.right.transport.session = false ∨ p.toRight.bytes.length < n) :
    p.carry n = .refused (.environmentDuty 3) := by
  unfold Pair.carry
  split
  · have hsession := h.resolve_right (by omega)
    simp [Endpoint.move, hsession]
  · rfl

/-- Without a session the bytes of the session that was left can be lost (log entry 21). -/
theorem Pair.lose_of_no_session (hsession : p.right.transport.session = false)
    (hn : n ≤ p.toRight.stale) : p.lose n = .next { p with toRight := p.toRight.drop n } :=
  if_pos ⟨hsession, hn⟩

theorem Pair.lose_refused (h : p.right.transport.session = true ∨ p.toRight.stale < n) :
    p.lose n = .refused (.environmentDuty 3) :=
  if_neg fun ⟨hsession, hn⟩ => h.elim (by simp [hsession]) (Nat.not_lt.mpr hn)

end

/-- Settles O59: the ingress gives its front, and the moves of each wire are one lemma each; those to the
left end are the same moves seen from the other end. -/
theorem ingressAndWireLoseNothing : Obligations.IngressAndWireLoseNothing := by
  refine ⟨fun _ _ _ => Endpoint.deliver_takes_front,
    fun n p => ⟨Pair.carry_of_session, Pair.carry_refused, Pair.lose_of_no_session,
      Pair.lose_refused⟩,
    fun n p => ⟨fun hs hn => ?_, fun h => ?_, fun hs hn => ?_, fun h => ?_⟩⟩
  · exact congrArg mirrorOutcome (Pair.carry_of_session (p := p.mirror) hs hn)
  · exact congrArg mirrorOutcome (Pair.carry_refused (p := p.mirror) h)
  · exact congrArg mirrorOutcome (Pair.lose_of_no_session (p := p.mirror) hs hn)
  · exact congrArg mirrorOutcome (Pair.lose_refused (p := p.mirror) h)

end Sys2Proof.Machine
end

section
/-! PROOFS. Operand fields (30_encoding.md R79, R80) and the event port's encoding (R85 to R88): an event
word has one meaning, a meaning one event word, and what is no event word is refused. -/

namespace Sys2Proof.Machine

/-! ### Operand fields (R79, R80) -/

theorem loByte_toNat (v : I16) : (loByte v).toNat = v.toNat % 256 := by
  simp [loByte, BitVec.extractLsb'_toNat]

theorem hiByte_toNat (v : I16) : (hiByte v).toNat = v.toNat / 256 := by
  have := v.isLt
  simp only [hiByte, BitVec.extractLsb'_toNat, Nat.shiftRight_eq_div_pow]
  omega

/-- The value of a length field is its low byte and 256 times its high byte (R88). -/
theorem len16_eq (lo hi : Byte) : len16 lo hi = lo.toNat + 256 * hi.toNat := by
  have hlo := loByte_toNat (i16OfBytes lo hi)
  have hhi := hiByte_toNat (i16OfBytes lo hi)
  rw [loByte_i16OfBytes] at hlo
  rw [hiByte_i16OfBytes] at hhi
  unfold len16
  omega

theorem len16_le (lo hi : Byte) : len16 lo hi ≤ 65535 :=
  Nat.le_of_lt_succ (i16OfBytes lo hi).isLt

/-- The bytes of a length field are those of the length it says (R86). -/
theorem lenLo_len16 (lo hi : Byte) : lenLo (len16 lo hi) = lo := by simp [lenLo, len16]

theorem lenHi_len16 (lo hi : Byte) : lenHi (len16 lo hi) = hi := by simp [lenHi, len16]

/-- `rd_i16` reads back what `wr_i16` wrote, at any offset (R79). -/
theorem rdI16_wrI16 (v : I16) (before behind : List Byte) :
    rdI16 (before ++ wrI16 v ++ behind) before.length = some v.toInt := by
  simp [rdI16, wrI16]

/-- Settles O5: reading back is `rdI16_wrI16`, the byte order and the range are arithmetic of the 16-bit
pattern, and the flags are their definitions. -/
theorem operandFieldsAreLittleEndianAndFlagsNormalised :
    Obligations.OperandFieldsAreLittleEndianAndFlagsNormalised := by
  refine ⟨rdI16_wrI16, fun v => ⟨loByte_toNat v, hiByte_toNat v, rfl, ?_, ?_⟩, rfl, rfl, rfl, ?_⟩
  · exact BitVec.le_toInt v
  · exact Int.le_of_lt_add_one BitVec.toInt_lt
  · exact fun b hb => decide_eq_true hb

/-! ### The decoder, opcode by opcode (R86, R88) -/

section
variable {c : Config} {w rest : List Byte} {i : Instr}

theorem decodeEvent_of_reserved {op : Byte} (h : EvOp.ofByte op = none) :
    decodeEvent c (op :: w) = .ok (.reservedEv op, w) := by
  simp [decodeEvent, h]

theorem decodeEvent_rxChunk (c : Config) (n0 n1 : Byte) (body : List Byte) :
    decodeEvent c (EvOp.rxChunk.code :: n0 :: n1 :: body) =
      if c.chunkMax < len16 n0 n1 then .error (.chunkTooLong (len16 n0 n1))
      else if body.length < len16 n0 n1 then .error .cutShort
      else .ok (.rxChunk (body.take (len16 n0 n1)), body.drop (len16 n0 n1)) := rfl

theorem decodeEvent_txRaw (c : Config) (kind len : Byte) (body : List Byte) :
    decodeEvent c (EvOp.txRaw.code :: kind :: len :: body) =
      if body.length < len.toNat then .error .cutShort
      else .ok (.txRaw kind (body.take len.toNat), body.drop len.toNat) := rfl

/-! ### Round trips (R85 to R88) -/

/-- A well-formed event is decoded from its event word, whatever stands behind it. -/
theorem decodeEvent_encodeEvent (hev : i.isEvent = true) (hwf : i.wf c = true) (rest : List Byte) :
    decodeEvent c (encodeEvent i ++ rest) = .ok (i, rest) := by
  cases i with
  | connectReq | disconnectReq | tpUp | tpDown | tick => rfl
  | rxChunk data =>
    obtain ⟨hmax, h16⟩ : data.length ≤ c.chunkMax ∧ data.length ≤ 65535 := by
      simpa [Instr.wf] using hwf
    simp [encodeEvent, decodeEvent_rxChunk, len16_lenLo_lenHi _ h16, hmax]
  | txRaw kind payload =>
    have h8 : payload.length ≤ 255 := by simpa [Instr.wf] using hwf
    simp only [encodeEvent, List.cons_append, decodeEvent_txRaw, lenByte_toNat _ h8]
    simp
  | txMove f l r => simp [encodeEvent, wrI16, decodeEvent]
  | txControl p s mode => rfl
  | txTarget x y => simp [encodeEvent, wrI16, decodeEvent]
  | reservedEv op => exact decodeEvent_of_reserved (by simpa [Instr.wf] using hwf)
  | heartbeat | move | control | target | unassignedKind | malformedKnownKind => cases hev

/-- Bytes that are an event's word are decoded to that event. -/
theorem decodeEvent_of_word (hword : encodeEvent i = w) (hev : i.isEvent = true)
    (hwf : i.wf c = true) : decodeEvent c w = .ok (i, []) := by
  simpa [hword] using decodeEvent_encodeEvent hev hwf []

/-- What is decoded is a well-formed event, read from its own event word. -/
theorem eq_encodeEvent_of_decodeEvent (h : decodeEvent c w = .ok (i, rest)) :
    i.isEvent = true ∧ i.wf c = true ∧ w = encodeEvent i ++ rest := by
  match w with
  | [] => cases h
  | op :: w =>
    cases ho : EvOp.ofByte op with
    | none =>
      rw [decodeEvent_of_reserved ho] at h
      cases h
      exact ⟨rfl, by simp [Instr.wf, ho], rfl⟩
    | some o =>
      obtain rfl := evOp_ofByte_eq_some ho
      cases o with
      | connectReq | disconnectReq | tpUp | tpDown | tick =>
        cases h
        exact ⟨rfl, rfl, rfl⟩
      | rxChunk =>
        match w with
        | [] | [_] => cases h
        | n0 :: n1 :: body =>
          rw [decodeEvent_rxChunk] at h
          split_ifs at h with hmax hcut
          cases h
          have hlen : (body.take (len16 n0 n1)).length = len16 n0 n1 := by simp; omega
          refine ⟨rfl, ?_, ?_⟩
          · have := len16_le n0 n1
            simp only [Instr.wf, hlen, Bool.and_eq_true, decide_eq_true_eq]
            omega
          · simp only [encodeEvent, hlen, lenLo_len16, lenHi_len16, List.cons_append,
              List.take_append_drop]
      | txRaw =>
        match w with
        | [] | [_] => cases h
        | kind :: len :: body =>
          rw [decodeEvent_txRaw] at h
          split_ifs at h with hcut
          cases h
          have hlen : (body.take len.toNat).length = len.toNat := by simp; omega
          refine ⟨rfl, ?_, ?_⟩
          · have := len.isLt
            simp only [Instr.wf, hlen, decide_eq_true_eq]
            omega
          · simp only [encodeEvent, hlen, BitVec.ofNat_toNat, BitVec.setWidth_eq,
              List.cons_append, List.take_append_drop]
      | txMove =>
        match w with
        | [] | [_] | [_, _] | [_, _, _] | [_, _, _, _] | [_, _, _, _, _] => cases h
        | f0 :: f1 :: l0 :: l1 :: r0 :: r1 :: behind =>
          cases h
          exact ⟨rfl, rfl, by simp [encodeEvent]⟩
      | txControl =>
        match w with
        | [] | [_] | [_, _] => cases h
        | p :: s :: mode :: behind =>
          cases h
          exact ⟨rfl, rfl, rfl⟩
      | txTarget =>
        match w with
        | [] | [_] | [_, _] | [_, _, _] => cases h
        | x0 :: x1 :: y0 :: y1 :: behind =>
          cases h
          exact ⟨rfl, rfl, by simp [encodeEvent]⟩

end

/-- Settles O9, by the round trip `decodeEvent_encodeEvent`. -/
theorem eventWordsDecodeToTheirEvents : Obligations.EventWordsDecodeToTheirEvents :=
  fun _ _ rest hev hwf => decodeEvent_encodeEvent hev hwf rest

/-- Settles O10: the bound on `CHUNK_MAX` is not needed, since the length field has 16 bits. -/
theorem decodedEventsComeFromTheirEventWords : Obligations.DecodedEventsComeFromTheirEventWords :=
  fun _ _ _ _ _ => eq_encodeEvent_of_decodeEvent

/-! ### What is no event word (R87) -/

section
variable {c : Config} {w rest : List Byte} {i : Instr}

/-- Bytes are rejected because there are none, or by the length field of an RX_CHUNK over `CHUNK_MAX`, or
because they are cut short. -/
theorem decodeEvent_error_cases {r : DecodeReject} (h : decodeEvent c w = .error r) :
    w = [] ∨ r = .cutShort ∨ ∃ n0 n1 body, w = EvOp.rxChunk.code :: n0 :: n1 :: body ∧
      c.chunkMax < len16 n0 n1 := by
  match w with
  | [] => exact .inl rfl
  | op :: w =>
    refine .inr ?_
    cases ho : EvOp.ofByte op with
    | none => simp [decodeEvent_of_reserved ho] at h
    | some o =>
      obtain rfl := evOp_ofByte_eq_some ho
      cases o with
      | connectReq | disconnectReq | tpUp | tpDown | tick => cases h
      | rxChunk =>
        match w with
        | [] | [_] => cases h; exact .inl rfl
        | n0 :: n1 :: body =>
          rw [decodeEvent_rxChunk] at h
          split_ifs at h with hmax hcut
          · exact .inr ⟨n0, n1, body, rfl, hmax⟩
          · cases h; exact .inl rfl
      | txRaw =>
        match w with
        | [] | [_] => cases h; exact .inl rfl
        | kind :: len :: body =>
          rw [decodeEvent_txRaw] at h
          split_ifs at h
          cases h; exact .inl rfl
      | txMove | txControl | txTarget =>
        simp only [decodeEvent, evOp_ofByte_code] at h
        split at h <;> cases h
        exact .inl rfl

/-- The length bound is checked on the length field alone (log entry 8). -/
theorem decodeEvent_of_chunkMax_lt {n0 n1 : Byte} (h : c.chunkMax < len16 n0 n1) (body : List Byte) :
    decodeEvent c (EvOp.rxChunk.code :: n0 :: n1 :: body) = .error (.chunkTooLong (len16 n0 n1)) := by
  rw [decodeEvent_rxChunk, if_pos h]

/-- A decoded event stays the same when more bytes come behind it. -/
theorem decodeEvent_append (h : decodeEvent c w = .ok (i, rest)) (more : List Byte) :
    decodeEvent c (w ++ more) = .ok (i, rest ++ more) := by
  obtain ⟨hev, hwf, rfl⟩ := eq_encodeEvent_of_decodeEvent h
  rw [List.append_assoc, decodeEvent_encodeEvent hev hwf]

/-- A proper front of a well-formed event's word is no other event word: decoded or too long, it would stay
so with the rest of the word behind it. -/
theorem decodeEvent_front (hev : i.isEvent = true) (hwf : i.wf c = true) {n : Nat} (hpos : 1 ≤ n)
    (hlt : n < (encodeEvent i).length) :
    decodeEvent c ((encodeEvent i).take n) = .error .cutShort := by
  have hword : decodeEvent c ((encodeEvent i).take n ++ (encodeEvent i).drop n) = .ok (i, []) :=
    decodeEvent_of_word (List.take_append_drop n _).symm hev hwf
  cases hfront : decodeEvent c ((encodeEvent i).take n) with
  | ok read =>
    obtain ⟨j, rest⟩ := read
    rw [decodeEvent_append hfront] at hword
    have hbehind : rest ++ (encodeEvent i).drop n = [] := (Prod.mk.inj (Except.ok.inj hword)).2
    have : (encodeEvent i).length ≤ n := by simpa using (List.append_eq_nil_iff.1 hbehind).2
    omega
  | error r =>
    obtain hnil | rfl | ⟨n0, n1, body, hchunk, hmax⟩ := decodeEvent_error_cases hfront
    · have hlen := List.length_take_of_le hlt.le
      rw [hnil, List.length_nil] at hlen
      omega
    · rfl
    · rw [hchunk, List.cons_append, List.cons_append, List.cons_append,
        decodeEvent_of_chunkMax_lt hmax] at hword
      cases hword

end

/-- The reserved ranges hold no opcode of R86. -/
theorem evOp_ofByte_eq_none {op : Byte} (h : op.toNat = 0 ∨ (0x06 ≤ op.toNat ∧ op.toNat ≤ 0x0F) ∨
    (0x11 ≤ op.toNat ∧ op.toNat ≤ 0x1F) ∨ 0x24 ≤ op.toNat) : EvOp.ofByte op = none := by
  cases ho : EvOp.ofByte op with
  | none => rfl
  | some o =>
    obtain rfl := evOp_ofByte_eq_some ho
    cases o <;> simp [EvOp.code] at h

theorem step_of_cutShort {s : State} (h : decodeEvent s.cfg s.port = .error .cutShort) :
    step s = .refused .eventWordCutShort := by
  simp [step, fetch, h]

theorem step_of_chunkTooLong {s : State} {n : Nat}
    (h : decodeEvent s.cfg s.port = .error (.chunkTooLong n)) :
    step s = .refused (.chunkTooLong n) := by
  simp [step, fetch, h]

/-- Settles O51: the refusals are those of `execReservedEv` and of the fetch; a front of an event word is
`decodeEvent_front`. -/
theorem malformedEventWordsAreRefused : Obligations.MalformedEventWordsAreRefused := by
  refine ⟨fun _ _ => rfl, fun op rest s hport hrange => ?_, fun n0 n1 rest s hport hmax => ?_,
    fun i n s hev hwf hport hpos hlt => ?_⟩
  · have hdec : decodeEvent s.cfg s.port = .ok (.reservedEv op, rest) := by
      rw [hport, decodeEvent_of_reserved (evOp_ofByte_eq_none hrange)]
    rw [step_of_decodeEvent hdec]
    rfl
  · rw [← len16_eq] at hmax ⊢
    have hdec := hport ▸ decodeEvent_of_chunkMax_lt hmax rest
    exact ⟨⟨_, step_of_chunkTooLong hdec⟩, fun _ => step_of_chunkTooLong hdec⟩
  · exact step_of_cutShort (hport ▸ decodeEvent_front hev hwf hpos hlt)

end Sys2Proof.Machine
end

section
/-! PROOFS. Wire frames (30_encoding.md R70 to R82): the frame of a class is decoded and classified as that
class. -/

namespace Sys2Proof.Machine

/-! ### The codec on a whole frame (R70, R102) -/

/-- A whole frame at the front of a window is decoded, whatever stands behind it. -/
theorem decodeFrame_frameBytes (c : Config) (kind : Byte) {payload : List Byte}
    (h : payload.length ≤ 255) (rest : List Byte) :
    decodeFrame c (frameBytes c kind payload ++ rest) = .frame kind payload := by
  have hlen : (BitVec.ofNat 8 payload.length).toNat = payload.length := lenByte_toNat _ h
  simp [decodeFrame, frameBytes, frameTotal, hlen]

/-! ### Classification by kind and exact length (R74 to R78) -/

theorem hasKind_iff {c : Config} {k : FrameKind} : c.hasKind k = true ↔
    c.kindOf (c.kindCode k) = some k ∧ k.fieldBytes ≤ c.kindLen k ∧ c.kindLen k ≤ 255 := by
  simp [Config.hasKind, and_assoc]

section
variable {c : Config} {kind : Byte} {fill : List Byte}

theorem classifyFrame_heartbeat {payload : List Byte} (hk : c.kindOf kind = some .heartbeat)
    (hl : payload.length = c.kindLen .heartbeat) : classifyFrame c kind payload = .heartbeat := by
  simp [classifyFrame, hk, hl]

theorem classifyFrame_move {f0 f1 l0 l1 r0 r1 : Byte} (hk : c.kindOf kind = some .move)
    (hl : (f0 :: f1 :: l0 :: l1 :: r0 :: r1 :: fill).length = c.kindLen .move) :
    classifyFrame c kind (f0 :: f1 :: l0 :: l1 :: r0 :: r1 :: fill) =
      .move (i16OfBytes f0 f1) (i16OfBytes l0 l1) (i16OfBytes r0 r1) := by
  simp [classifyFrame, hk, ← hl]

theorem classifyFrame_control {p s mode reserved : Byte} (hk : c.kindOf kind = some .control)
    (hl : (p :: s :: mode :: reserved :: fill).length = c.kindLen .control) :
    classifyFrame c kind (p :: s :: mode :: reserved :: fill) = .control p s mode reserved := by
  simp [classifyFrame, hk, ← hl]

theorem classifyFrame_target {x0 x1 y0 y1 : Byte} (hk : c.kindOf kind = some .target)
    (hl : (x0 :: x1 :: y0 :: y1 :: fill).length = c.kindLen .target) :
    classifyFrame c kind (x0 :: x1 :: y0 :: y1 :: fill) =
      .target (i16OfBytes x0 x1) (i16OfBytes y0 y1) := by
  simp [classifyFrame, hk, ← hl]

end

/-! ### The frame of a class (log entry 3) -/

/-- The payload of a kind has the kind's length, which the length byte can say (R73, R74). -/
theorem kindPayload_length {c : Config} {k : FrameKind} {fields : List Byte}
    (hkind : c.hasKind k = true) (hfields : fields.length = k.fieldBytes) :
    (kindPayload c k fields).length = c.kindLen k ∧ (kindPayload c k fields).length ≤ 255 := by
  obtain ⟨-, hfit, hmax⟩ := hasKind_iff.1 hkind
  simp only [kindPayload, List.length_append, List.length_replicate, hfields]
  omega

/-- The class of a well-formed class's own kind and payload is that class, and the length byte can say the
payload's length. -/
theorem classifyFrame_framePart {c : Config} {i : Instr} {kind : Byte} {payload : List Byte}
    (hwf : i.wf c = true) (hpart : framePart c i = some (kind, payload)) :
    classifyFrame c kind payload = i ∧ payload.length ≤ 255 := by
  cases i with
  | heartbeat =>
    cases hpart
    obtain ⟨hlen, hmax⟩ := kindPayload_length (fields := []) hwf rfl
    exact ⟨classifyFrame_heartbeat (hasKind_iff.1 hwf).1 hlen, hmax⟩
  | move f l r =>
    cases hpart
    obtain ⟨hlen, hmax⟩ := kindPayload_length (fields := wrI16 f ++ wrI16 l ++ wrI16 r) hwf rfl
    exact ⟨(classifyFrame_move (hasKind_iff.1 hwf).1 hlen).trans (by simp), hmax⟩
  | control p s mode reserved =>
    cases hpart
    obtain ⟨hlen, hmax⟩ := kindPayload_length (fields := [p, s, mode, reserved]) hwf rfl
    exact ⟨classifyFrame_control (hasKind_iff.1 hwf).1 hlen, hmax⟩
  | target x y =>
    cases hpart
    obtain ⟨hlen, hmax⟩ := kindPayload_length (fields := wrI16 x ++ wrI16 y) hwf rfl
    exact ⟨(classifyFrame_target (hasKind_iff.1 hwf).1 hlen).trans (by simp), hmax⟩
  | unassignedKind kind payload =>
    cases hpart
    obtain ⟨hk, hmax⟩ : c.kindOf kind = none ∧ payload.length ≤ 255 := by
      simpa [Instr.wf] using hwf
    exact ⟨classifyFrame_unassigned c kind payload hk, hmax⟩
  | malformedKnownKind kind payload =>
    cases hpart
    simp only [Instr.wf, Bool.and_eq_true, decide_eq_true_eq] at hwf
    obtain ⟨hknown, hmax⟩ := hwf
    split at hknown
    next k hk =>
      exact ⟨classifyFrame_malformed c kind payload k hk (of_decide_eq_true hknown), hmax⟩
    next => cases hknown
  | connectReq | disconnectReq | tpUp | tpDown | tick | rxChunk | txRaw | txMove | txControl
  | txTarget | reservedEv => cases hpart

/-- Every frame class has a kind and a payload. -/
theorem framePart_of_isFrame (c : Config) {i : Instr} (h : i.isFrame = true) :
    ∃ kind payload, framePart c i = some (kind, payload) := by
  cases i with
  | heartbeat | move | control | target | unassignedKind | malformedKnownKind => exact ⟨_, _, rfl⟩
  | connectReq | disconnectReq | tpUp | tpDown | tick | rxChunk | txRaw | txMove | txControl
  | txTarget | reservedEv => cases h

/-- A well-formed frame class is read from its wire frame, whatever stands behind it. -/
theorem decodeFrameInstr_encode {c : Config} {i : Instr} (hframe : i.isFrame = true)
    (hwf : i.wf c = true) (rest : List Byte) :
    decodeFrameInstr c (encode c i ++ rest) = some i := by
  obtain ⟨kind, payload, hpart⟩ := framePart_of_isFrame c hframe
  obtain ⟨hclass, hlen⟩ := classifyFrame_framePart hwf hpart
  have hencode : encode c i = frameBytes c kind payload := by simp [encode, hpart]
  simp [decodeFrameInstr, hencode, decodeFrame_frameBytes c kind hlen, hclass]

/-- Settles O11, by the round trip `decodeFrameInstr_encode`. -/
theorem wireFramesDecodeToTheirClasses : Obligations.WireFramesDecodeToTheirClasses :=
  fun _ _ rest hframe hwf => decodeFrameInstr_encode hframe hwf rest

/-! ### Words written out -/

/-- Bytes that are a frame class's wire frame are decoded to that class. -/
theorem decodeFrameInstr_of_word {c : Config} {i : Instr} {w : List Byte} (hword : encode c i = w)
    (hframe : i.isFrame = true) (hwf : i.wf c = true) : decodeFrameInstr c w = some i := by
  simpa [hword] using decodeFrameInstr_encode hframe hwf []

/-- Settles O6: each word is the encoding of its instruction, so the two round trips read it. -/
theorem writtenOutWordsDecode : Obligations.WrittenOutWordsDecode := by
  intro cap chunk depth dur tgt hchunk c
  have hchunkWf : Instr.wf c (.rxChunk [0xAA, 0x00, 0x00, 0x55]) = true := by
    simpa [Instr.wf, c, Config.hardware] using hchunk
  have htargetWf : Instr.wf c (.target (BitVec.ofInt 16 (-100)) 300) = true :=
    hasKind_of_framesTabled (framesTabled_hardware cap chunk depth dur tgt) .target
  exact ⟨decodeEvent_of_word rfl rfl rfl, decodeEvent_of_word rfl rfl hchunkWf,
    decodeEvent_of_word rfl rfl rfl, decodeEvent_of_word rfl rfl rfl,
    decodeFrameInstr_of_word rfl rfl htargetWf, decodeFrameInstr_of_word rfl rfl rfl⟩

end Sys2Proof.Machine
end

section
/-! PROOFS. The rows of the opcode table name what the decoders read: the EV rows over the opcode byte (R86,
R87), the FRAME rows over the header word (R71). -/

namespace Sys2Proof.Machine

/-! ### The EV rows (R86, R87) -/

/-- Every opcode byte matches exactly one row. -/
theorem evRows_countP_fits : ∀ op : Byte,
    (eventRows ++ reservedRows).countP (fun r => r.fits op) = 1 := by decide

theorem evMnemonic_of_reserved : ∀ op : Byte, EvOp.ofByte op = none →
    evMnemonic op = some "RESERVED_EV" := by decide

/-- The row of an event word's opcode byte names the event. -/
theorem evMnemonic_of_encodeEvent {c : Config} {i : Instr} {op : Byte} {w rest : List Byte}
    (hev : i.isEvent = true) (hwf : i.wf c = true) (hword : op :: w = encodeEvent i ++ rest) :
    evMnemonic op = some i.mnemonic := by
  cases i with
  | connectReq | disconnectReq | tpUp | tpDown | tick | rxChunk | txRaw | txMove | txControl
  | txTarget =>
    cases hword
    rfl
  | reservedEv =>
    cases hword
    exact evMnemonic_of_reserved op (of_decide_eq_true hwf)
  | heartbeat | move | control | target | unassignedKind | malformedKnownKind => cases hev

/-- Settles O7: what is decoded came from its event word, whose opcode's row names it. -/
theorem oneEventRowDecidesEveryOpcode : Obligations.OneEventRowDecidesEveryOpcode := by
  refine fun op => ⟨evRows_countP_fits op, fun c w rest i hdec => ?_⟩
  obtain ⟨hev, hwf, hword⟩ := eq_encodeEvent_of_decodeEvent hdec
  exact evMnemonic_of_encodeEvent hev hwf hword

/-! ### The FRAME rows (R71, R74, R81, R82) -/

/-- The rows with their patterns and masks written by bytes. -/
theorem frameRows_eq_bytes : frameRows =
    [⟨"HEARTBEAT", headerWord 0xAA 0x00 0x00, headerWord 0xFF 0xFF 0xFF, 1⟩,
     ⟨"MOVE", headerWord 0xAA 0x01 0x06, headerWord 0xFF 0xFF 0xFF, 1⟩,
     ⟨"CONTROL", headerWord 0xAA 0x02 0x04, headerWord 0xFF 0xFF 0xFF, 1⟩,
     ⟨"TARGET", headerWord 0xAA 0x03 0x04, headerWord 0xFF 0xFF 0xFF, 1⟩,
     ⟨"UNASSIGNED_KIND", headerWord 0xAA 0x04 0x00, headerWord 0xFF 0xFC 0x00, 1⟩,
     ⟨"UNASSIGNED_KIND", headerWord 0xAA 0x08 0x00, headerWord 0xFF 0xF8 0x00, 1⟩,
     ⟨"UNASSIGNED_KIND", headerWord 0xAA 0x10 0x00, headerWord 0xFF 0xF0 0x00, 1⟩,
     ⟨"UNASSIGNED_KIND", headerWord 0xAA 0x20 0x00, headerWord 0xFF 0xE0 0x00, 1⟩,
     ⟨"UNASSIGNED_KIND", headerWord 0xAA 0x40 0x00, headerWord 0xFF 0xC0 0x00, 1⟩,
     ⟨"UNASSIGNED_KIND", headerWord 0xAA 0x80 0x00, headerWord 0xFF 0x80 0x00, 1⟩,
     ⟨"MALFORMED_KNOWN_KIND", headerWord 0xAA 0x00 0x00, headerWord 0xFF 0xFC 0x00, 2⟩] := rfl

/-- The mnemonic of a known kind's frames of the kind's exact length (R74). -/
def kindMnemonic : FrameKind → String
  | .heartbeat => "HEARTBEAT"
  | .move => "MOVE"
  | .control => "CONTROL"
  | .target => "TARGET"

/-- The mnemonics of the priority-1 rows that match a header word. -/
def topMnemonics (h : BitVec 24) : List String :=
  (frameRows.filter (fun r => r.priority == 1 && r.fits h)).map FrameRow.mnemonic

theorem frameRows_countP_fits (h : BitVec 24) :
    frameRows.countP (fun r => r.priority == 1 && r.fits h) = (topMnemonics h).length := by
  simp [topMnemonics, List.countP_eq_length_filter]

/-- A matching priority-1 row decides; else the one row of priority 2, if the kind is below 4 (R71). -/
theorem frameMnemonic_eq (kind len : Byte) :
    frameMnemonic (headerWord 0xAA kind len) = (topMnemonics (headerWord 0xAA kind len)).head?.or
      (if kind &&& 0xFC = 0x00 then some "MALFORMED_KNOWN_KIND" else none) := by
  have hlow : (frameRows.find? (fun r => r.priority == 2 && r.fits (headerWord 0xAA kind len))).map
      FrameRow.mnemonic = if kind &&& 0xFC = 0x00 then some "MALFORMED_KNOWN_KIND" else none := by
    rw [frameRows_eq_bytes]
    by_cases hkind : kind &&& 252#8 = 0#8 <;> simp [frameRow_fits, hkind]
  rw [frameMnemonic, topMnemonics, List.head?_map, List.head?_filter, hlow]
  cases frameRows.find? (fun r => r.priority == 1 && r.fits (headerWord 0xAA kind len)) <;> rfl

/-- Of a kind from 4 on no row reads the length byte: the rows of an exact length are of other kinds, and
the others mask it (R81). -/
theorem frameRow_fits_of_four_le {kind : Byte} (h : 4 ≤ kind.toNat) (len : Byte) :
    ∀ r ∈ frameRows, r.fits (headerWord 0xAA kind len) = r.fits (headerWord 0xAA kind 0x00) := by
  have hne : ∀ k : Byte, k.toNat < 4 → kind ≠ k := by
    rintro k hk rfl
    omega
  have hff : kind &&& 255#8 = kind := BitVec.and_allOnes
  rw [frameRows_eq_bytes]
  simp [frameRow_fits, hff, hne]

theorem topMnemonics_unassigned_zero : ∀ kind : Byte, 4 ≤ kind.toNat →
    topMnemonics (headerWord 0xAA kind 0x00) = ["UNASSIGNED_KIND"] := by decide

/-- An unassigned kind matches exactly one priority-1 row, whatever the length byte (R81). -/
theorem topMnemonics_unassigned {kind : Byte} (h : 4 ≤ kind.toNat) (len : Byte) :
    topMnemonics (headerWord 0xAA kind len) = ["UNASSIGNED_KIND"] := by
  rw [← topMnemonics_unassigned_zero kind h]
  unfold topMnemonics
  rw [List.filter_congr fun r hr => by rw [frameRow_fits_of_four_le h len r hr]]

/-- A known kind matches its own row at its exact length, and no priority-1 row at any other (R74, R82). -/
theorem topMnemonics_known {c : Config} (h : c.framesTabled = true) (k : FrameKind) (len : Byte) :
    topMnemonics (headerWord 0xAA (c.kindCode k) len) =
      if len.toNat = c.kindLen k then [kindMnemonic k] else [] := by
  obtain ⟨hb, mv, ct, tg, lhb, lmv, lct, ltg⟩ := (framesTabled_iff c).1 h
  have hff : len &&& 255#8 = len := BitVec.and_allOnes
  rw [topMnemonics, frameRows_eq_bytes]
  cases k <;> simp only [Config.kindCode, Config.kindLen, hb, mv, ct, tg, lhb, lmv, lct, ltg] <;>
    simp [List.filter_cons, frameRow_fits, hff, BitVec.toNat_eq, kindMnemonic,
      apply_ite (List.map FrameRow.mnemonic)]

/-- With the tabled lengths a known kind's frame of the exact length is of that kind's class (R75 to R78). -/
theorem classifyFrame_mnemonic_of_exact {c : Config} {kind : Byte} {payload : List Byte} {k : FrameKind}
    (h : c.framesTabled = true) (hk : c.kindOf kind = some k) (hl : payload.length = c.kindLen k) :
    (classifyFrame c kind payload).mnemonic = kindMnemonic k := by
  obtain ⟨-, -, -, -, -, lmv, lct, ltg⟩ := (framesTabled_iff c).1 h
  cases k with
  | heartbeat => rw [classifyFrame_heartbeat hk hl]; rfl
  | move =>
    obtain ⟨f0, f1, l0, l1, r0, r1, rfl⟩ := length_six (hl.trans lmv)
    rw [classifyFrame_move hk hl]; rfl
  | control =>
    obtain ⟨p, s, mode, reserved, rfl⟩ := length_four (hl.trans lct)
    rw [classifyFrame_control hk hl]; rfl
  | target =>
    obtain ⟨x0, x1, y0, y1, rfl⟩ := length_four (hl.trans ltg)
    rw [classifyFrame_target hk hl]; rfl

/-- With the tabled kinds, an unassigned kind is one from 4 on (R81). -/
theorem four_le_of_kindOf_none {c : Config} {kind : Byte} (h : c.framesTabled = true)
    (hk : c.kindOf kind = none) : 4 ≤ kind.toNat := by
  obtain ⟨hb, mv, ct, tg, -⟩ := (framesTabled_iff c).1 h
  simp only [Config.kindOf, hb, mv, ct, tg] at hk
  revert kind
  decide

theorem kindCode_and_fc {c : Config} (h : c.framesTabled = true) (k : FrameKind) :
    c.kindCode k &&& 0xFC = 0x00 := by
  obtain ⟨hb, mv, ct, tg, -⟩ := (framesTabled_iff c).1 h
  cases k <;> simp [Config.kindCode, hb, mv, ct, tg]

/-- Settles O8: an unassigned kind has its one row, a known kind its row at the exact length, and at any
other length only the row of priority 2, as the frame is then malformed. -/
theorem oneHeaderRowDecidesEveryFrame : Obligations.OneHeaderRowDecidesEveryFrame := by
  intro c kind len payload htabled hlen
  rw [frameRows_countP_fits, frameMnemonic_eq]
  cases hk : c.kindOf kind with
  | none =>
    rw [topMnemonics_unassigned (four_le_of_kindOf_none htabled hk),
      classifyFrame_unassigned c kind payload hk]
    exact ⟨le_rfl, rfl⟩
  | some k =>
    obtain rfl := kindOf_eq_some hk
    rw [topMnemonics_known htabled]
    split
    next hexact =>
      rw [classifyFrame_mnemonic_of_exact htabled hk (hlen.trans hexact)]
      exact ⟨le_rfl, rfl⟩
    next hne =>
      rw [classifyFrame_malformed c _ payload k hk (by rwa [hlen]),
        if_pos (kindCode_and_fc htabled k)]
      exact ⟨Nat.zero_le 1, rfl⟩

end Sys2Proof.Machine
end

section
/-! PROOFS. The frame codec (40_codec.md R100 to R106): a frame is decoded exactly where a window begins with
its bytes, and `encode` and `decode` are inverse to each other. -/

namespace Sys2Proof.Machine

section
variable {c : Config} {kind len : Byte} {payload w : List Byte}

/-! ### `encode` (R100, R101, R105, R113) -/

theorem encodeFrame_of_lt_length (h : c.maxPayload < payload.length) :
    encodeFrame c kind payload = .error (.payloadTooLarge payload.length) := if_pos h

theorem encodeFrame_eq_ok_iff :
    encodeFrame c kind payload = .ok w ↔
      payload.length ≤ c.maxPayload ∧ w = frameBytes c kind payload := by
  constructor
  · intro h
    unfold encodeFrame at h
    split at h
    · cases h
    · cases h
      exact ⟨Nat.not_lt.mp ‹_›, rfl⟩
  · rintro ⟨hlen, rfl⟩
    exact encodeFrame_of_length_le hlen

/-- The third byte of a frame is the length byte (R70). -/
theorem frameBytes_append_getElem?_two (c : Config) (kind : Byte) (payload rest : List Byte) :
    (frameBytes c kind payload ++ rest)[2]? = some (BitVec.ofNat 8 payload.length) := rfl

/-- A frame says its kind and its payload, also where the length byte cannot say the length. -/
theorem frameBytes_inj {k1 k2 : Byte} {p1 p2 : List Byte}
    (h : frameBytes c k1 p1 = frameBytes c k2 p2) : k1 = k2 ∧ p1 = p2 := by
  have hfront := List.append_cancel_right h
  simp only [List.cons_append, List.nil_append, List.cons.injEq] at hfront
  obtain ⟨-, hkind, -, hpayload⟩ := hfront
  exact ⟨hkind, hpayload⟩

/-! ### `decode` (R102 to R104, R106) -/

/-- A window that begins with another byte than SOF is invalid, however short it is (R102, R103). -/
theorem decodeFrame_of_head_ne_sof (hw : 1 ≤ w.length) (hsof : w[0]? ≠ some c.sof) :
    decodeFrame c w = .invalid := by
  unfold decodeFrame
  rw [if_neg (Nat.pos_iff_ne_zero.mp hw), if_pos hsof]

/-- A window of one or two bytes that begins with SOF waits for its length byte (R103). -/
theorem decodeFrame_of_no_length_byte (hw : w.length ≤ 2) (hsof : w[0]? = some c.sof) :
    decodeFrame c w = .incomplete := by
  have hlen : w[2]? = none := List.getElem?_eq_none hw
  unfold decodeFrame
  rw [if_neg (not_not.mpr hsof), hlen, ite_eq_left_iff]
  intro _
  cases w[1]? <;> rfl

/-- The decision of `decode` on a window with a length byte, in the order of R102. -/
theorem decodeFrame_long (c : Config) (b0 kind len : Byte) (body : List Byte) :
    decodeFrame c (b0 :: kind :: len :: body) =
      if b0 ≠ c.sof then .invalid
      else if body.length ≤ len.toNat then .incomplete
      else if body[len.toNat]? ≠ some c.eof then .invalid
      else .frame kind (body.take len.toNat) := by
  have hwait : body.length + 1 + 1 + 1 < len.toNat + 4 ↔ body.length ≤ len.toNat := by omega
  simp [decodeFrame, frameTotal, hwait]

/-- A frame is decoded from no window without a length byte (R103). -/
theorem three_le_length_of_decodeFrame (h : decodeFrame c w = .frame kind payload) :
    3 ≤ w.length := by
  by_contra hshort
  by_cases hsof : w[0]? = some c.sof
  · rw [decodeFrame_of_no_length_byte (by omega) hsof] at h
    cases h
  · match w with
    | [] => cases h
    | b :: behind =>
      rw [decodeFrame_of_head_ne_sof (w := b :: behind) (Nat.succ_pos _) hsof] at h
      cases h

/-- `decode` finds a frame exactly where the window begins with that frame's bytes (R102, R106). -/
theorem decodeFrame_eq_frame_iff :
    decodeFrame c w = .frame kind payload ↔
      payload.length ≤ 255 ∧ ∃ rest, w = frameBytes c kind payload ++ rest := by
  constructor
  · intro h
    obtain ⟨b0, k, len, body, rfl⟩ := long_buffer_cases w (three_le_length_of_decodeFrame h)
    rw [decodeFrame_long] at h
    split_ifs at h with hsof hwait heof
    cases h
    have hlt : len.toNat < body.length := Nat.not_le.mp hwait
    have hlen : (body.take len.toNat).length = len.toNat := List.length_take_of_le hlt.le
    obtain ⟨_, heof⟩ := List.getElem?_eq_some_iff.1 (not_not.mp heof)
    have hbody : body = body.take len.toNat ++ c.eof :: body.drop (len.toNat + 1) := by
      rw [← heof, ← List.drop_eq_getElem_cons hlt, List.take_append_drop]
    refine ⟨?_, body.drop (len.toNat + 1), ?_⟩
    · rw [hlen]
      exact Nat.le_of_lt_succ len.isLt
    · rw [frameBytes, hlen, BitVec.ofNat_toNat, BitVec.setWidth_eq, not_not.mp hsof]
      simpa using hbody
  · rintro ⟨hlen, rest, rfl⟩
    exact decodeFrame_frameBytes c kind hlen rest

/-- A whole window of one frame is decoded to it, with every length the length byte can say (R106). -/
theorem decodeFrame_frameBytes_self (h : payload.length ≤ 255) :
    decodeFrame c (frameBytes c kind payload) = .frame kind payload :=
  decodeFrame_eq_frame_iff.2 ⟨h, [], (List.append_nil _).symm⟩

/-- More bytes behind a window that holds the declared total change nothing (R104). -/
theorem decodeFrame_append (hlen : w[2]? = some len) (htotal : frameTotal len ≤ w.length)
    (behind : List Byte) : decodeFrame c (w ++ behind) = decodeFrame c w := by
  have hthree : 3 ≤ w.length := by simp only [frameTotal] at htotal; omega
  obtain ⟨b0, kind, len', body, rfl⟩ := long_buffer_cases w hthree
  obtain rfl : len' = len := by simpa using hlen
  have hbody : len'.toNat < body.length := by
    simp only [frameTotal, List.length_cons] at htotal
    omega
  have hmore : len'.toNat < (body ++ behind).length := by
    rw [List.length_append]
    omega
  simp only [List.cons_append, decodeFrame_long, if_neg (Nat.not_le.mpr hbody),
    if_neg (Nat.not_le.mpr hmore), List.getElem?_append_left hbody,
    List.take_append_of_le_length hbody.le]

/-- The bytes behind the declared total can be replaced: with any of them, `decode` reads the total's own
bytes (R104). -/
theorem decodeFrame_take_append (hlen : w[2]? = some len) (htotal : frameTotal len ≤ w.length)
    (behind : List Byte) :
    decodeFrame c (w.take (frameTotal len) ++ behind) = decodeFrame c w := by
  have hfront : (w.take (frameTotal len))[2]? = some len := by
    rw [List.getElem?_take_of_lt (by simp only [frameTotal]; omega), hlen]
  have hwhole : frameTotal len ≤ (w.take (frameTotal len)).length :=
    (List.length_take_of_le htotal).ge
  calc decodeFrame c (w.take (frameTotal len) ++ behind)
      = decodeFrame c (w.take (frameTotal len)) := decodeFrame_append hfront hwhole behind
    _ = decodeFrame c (w.take (frameTotal len) ++ w.drop (frameTotal len)) :=
        (decodeFrame_append hfront hwhole _).symm
    _ = decodeFrame c w := by rw [List.take_append_drop]

/-- A decoded frame has exactly the declared total of bytes (R102). -/
theorem length_of_decodeFrame (hlen : w[2]? = some len) (h : decodeFrame c w = .frame kind payload) :
    payload.length + 4 = frameTotal len := by
  obtain ⟨hmax, rest, rfl⟩ := decodeFrame_eq_frame_iff.1 h
  rw [frameBytes_append_getElem?_two] at hlen
  cases hlen
  rw [frameTotal, lenByte_toNat _ hmax]

/-! ### Frames that no command has (R81 to R83) -/

theorem dispatch_of_unassigned {s : State} (h : s.cfg.kindOf kind = none) :
    dispatch kind payload s = s := by
  simp [dispatch, h, ignore]

theorem dispatch_of_malformed {s : State} {k : FrameKind} (h : s.cfg.kindOf kind = some k)
    (hlen : payload.length ≠ s.cfg.kindLen k) : dispatch kind payload s = s := by
  simp [dispatch, h, hlen, discard]

/-- The longest tabled payload is the Move's (R74). -/
theorem kindLen_le_six (h : c.framesTabled = true) (k : FrameKind) : c.kindLen k ≤ 6 := by
  obtain ⟨-, -, -, -, lhb, lmv, lct, ltg⟩ := (framesTabled_iff c).1 h
  cases k <;> simp [Config.kindLen, lhb, lmv, lct, ltg]

/-- A payload longer than every command's is dispatched to nothing (R83). -/
theorem dispatch_of_six_lt_length {s : State} (h : s.cfg.framesTabled = true)
    (hlen : 6 < payload.length) : dispatch kind payload s = s := by
  cases hk : s.cfg.kindOf kind with
  | none => exact dispatch_of_unassigned hk
  | some k =>
    have hle := kindLen_le_six h k
    exact dispatch_of_malformed hk (by omega)

end

/-- Settles O13: `encode` gives the frame's bytes, which `decodeFrame_frameBytes_self` reads. -/
theorem codecRoundTrip : Obligations.CodecRoundTrip :=
  fun c kind payload hmax hlen => ⟨frameBytes c kind payload, encodeFrame_of_length_le hlen,
    decodeFrame_frameBytes_self (hlen.trans hmax)⟩

/-- Settles O14: both outputs are their pair's frame, which `frameBytes_inj` takes apart. -/
theorem encodeIsInjective : Obligations.EncodeIsInjective := by
  intro c k1 k2 p1 p2 w h1 h2
  obtain ⟨-, rfl⟩ := encodeFrame_eq_ok_iff.1 h1
  obtain ⟨-, hw⟩ := encodeFrame_eq_ok_iff.1 h2
  exact frameBytes_inj hw

/-- Settles O16, by `decodeFrame_take_append` and `length_of_decodeFrame`. -/
theorem decodeIgnoresBytesBehindTheFrame : Obligations.DecodeIgnoresBytesBehindTheFrame :=
  fun _ _ behind _ hlen htotal =>
    ⟨decodeFrame_take_append hlen htotal behind, fun _ _ => length_of_decodeFrame hlen⟩

/-- Settles O17: `decode` reads exactly the frames whose length the length byte can say, and no command's
payload has more than six bytes. -/
theorem structuralOnlyFramesAreAcceptedAndDropped :
    Obligations.StructuralOnlyFramesAreAcceptedAndDropped := by
  refine ⟨fun c kind payload => decodeFrame_frameBytes_self, fun c w kind payload h => ?_,
    fun kind payload s htabled hlen => ?_⟩
  · obtain ⟨hmax, -⟩ := decodeFrame_eq_frame_iff.1 h
    omega
  · exact dispatch_of_six_lt_length htabled (by omega)

/-- Settles O12: an output is the frame's bytes, and the length byte holds a length up to 255. -/
theorem encodeBuildsTheFrameOrRaises : Obligations.EncodeBuildsTheFrameOrRaises := by
  refine fun c kind payload => ⟨encodeFrame_of_length_le, encodeFrame_of_lt_length,
    fun w hmax h => ?_⟩
  obtain ⟨hlen, rfl⟩ := encodeFrame_eq_ok_iff.1 h
  rw [frameBytes_length]
  refine ⟨by omega, by omega, BitVec.ofNat 8 payload.length, rfl, ?_⟩
  rwa [lenByte_toNat _ (hlen.trans hmax)]

/-- Settles O15: a window that begins with SOF waits for its length byte, and any other is refused at its
first byte. -/
theorem decodeOfShortWindows : Obligations.DecodeOfShortWindows :=
  fun _ => ⟨rfl, decodeFrame_of_no_length_byte (Nat.le_succ 1) rfl,
    fun _ => decodeFrame_of_no_length_byte le_rfl rfl,
    fun _ hw _ hsof => decodeFrame_of_head_ne_sof hw hsof⟩

end Sys2Proof.Machine
end

section
/-! PROOFS. The TX events (40_codec.md R107 to R111): each is `TxSend` of its kind and payload, so what it
does is said once, over `txPart`. -/

namespace Sys2Proof.Machine

section
variable {i : Instr} {s : State} {kind : Byte} {payload : List Byte}

theorem txSend_of_too_large (hlen : s.cfg.maxPayload < payload.length) :
    txSend kind payload s = s.raisePayloadTooLarge := if_pos hlen

theorem txSend_of_not_connected (hlen : payload.length ≤ s.cfg.maxPayload)
    (hlink : s.linkState ≠ .connected) : txSend kind payload s = s := by
  rw [txSend, if_neg (Nat.not_lt.mpr hlen), if_pos hlink]

theorem txSend_of_connected (hlen : payload.length ≤ s.cfg.maxPayload)
    (hlink : s.linkState = .connected) :
    txSend kind payload s = s.emit (.tx (frameBytes s.cfg kind payload)) := by
  rw [txSend, if_neg (Nat.not_lt.mpr hlen), if_neg (not_not.mpr hlink), State.emitFrame_ok s _ _ hlen]

/-- A TX event whose payload is too large reports it in every link state (R111, R202). -/
theorem exec_raises_of_txPart (htx : txPart s.cfg i = some (kind, payload))
    (hlen : s.cfg.maxPayload < payload.length) :
    exec i s = .next { s with faultPtl := true, out := s.out ++ [.err .payloadTooLarge] } := by
  rw [exec_of_txPart htx, txSend_of_too_large hlen]
  rfl

/-- A TX event outside CONNECTED does nothing (R111). -/
theorem exec_drops_of_txPart (htx : txPart s.cfg i = some (kind, payload))
    (hlen : payload.length ≤ s.cfg.maxPayload) (hlink : s.linkState ≠ .connected) :
    exec i s = .next s := by
  rw [exec_of_txPart htx, txSend_of_not_connected hlen hlink]

/-- A TX event in CONNECTED sends its frame (R111). -/
theorem exec_sends_of_txPart (htx : txPart s.cfg i = some (kind, payload))
    (hlen : payload.length ≤ s.cfg.maxPayload) (hlink : s.linkState = .connected) :
    exec i s = .next { s with out := s.out ++ [.tx (frameBytes s.cfg kind payload)] } := by
  rw [exec_of_txPart htx, txSend_of_connected hlen hlink]
  rfl

end

/-- A flag is sent normalised (R80, R109). -/
theorem flagByte_readFlag (b : Byte) : flagByte (readFlag b) = if b = 0 then 0x00 else 0x01 := by
  by_cases h : b = 0 <;> simp [flagByte, readFlag, h]

/-- Settles O18: the event word is TX_RAW's, and the three cases are those of its part. -/
theorem txRawSendsDropsOrReports : Obligations.TxRawSendsDropsOrReports :=
  fun kind payload _ =>
    ⟨fun hlen rest =>
      decodeEvent_encodeEvent (i := .txRaw kind payload) rfl (decide_eq_true hlen) rest,
      exec_raises_of_txPart rfl, exec_drops_of_txPart rfl, exec_sends_of_txPart rfl⟩

/-- Settles O19: the payload is the three fields' six bytes. -/
theorem txMoveSendsItsFrame : Obligations.TxMoveSendsItsFrame := by
  intro f l r s
  have htx : txPart s.cfg (.txMove f l r) =
      some (s.cfg.kindMove, wrI16 f ++ wrI16 l ++ wrI16 r) := rfl
  exact ⟨decodeEvent_encodeEvent (i := .txMove f l r) rfl rfl, exec_sends_of_txPart htx,
    exec_drops_of_txPart htx⟩

/-- Settles O20: the payload is four bytes, its flags as `flagByte_readFlag` says. -/
theorem txControlSendsItsFrame : Obligations.TxControlSendsItsFrame := by
  intro p q mode s
  have htx : txPart s.cfg (.txControl p q mode) = some (s.cfg.kindControl,
      [flagByte (readFlag p), flagByte (readFlag q), mode, 0x00]) := rfl
  rw [← flagByte_readFlag, ← flagByte_readFlag]
  exact ⟨decodeEvent_encodeEvent (i := .txControl p q mode) rfl rfl, exec_sends_of_txPart htx,
    exec_drops_of_txPart htx⟩

/-- Settles O21: the payload is the two fields' four bytes. -/
theorem txTargetSendsItsFrame : Obligations.TxTargetSendsItsFrame := by
  intro x y s
  have htx : txPart s.cfg (.txTarget x y) = some (s.cfg.kindTarget, wrI16 x ++ wrI16 y) := rfl
  exact ⟨decodeEvent_encodeEvent (i := .txTarget x y) rfl rfl, exec_sends_of_txPart htx,
    exec_drops_of_txPart htx⟩

end Sys2Proof.Machine
end

section
/-! PROOFS. A pass of the loop is `decode` on the buffer (41_reassembler.md R122 to R129), so the whole loop
is `scan` on it; and what `scan` finds. -/

namespace Sys2Proof.Machine

/-! ### One pass (R123 to R126, R129) -/

/-- What the loop does with an answer of `decode` (R129). -/
def passOf : DecodeResult → Pass
  | .invalid => .drop
  | .incomplete => .stop
  | .frame kind payload => .yield kind payload (payload.length + 4)

/-- Each pass is that of one answer. -/
theorem passOf_inj {a b : DecodeResult} : passOf a = passOf b ↔ a = b := by
  cases a <;> cases b <;> simp +contextual [passOf]

/-- From `MIN_FRAME` bytes on a pass does what `decode` says of the buffer (R129). -/
theorem nextPass_eq_passOf {s : State} (hm : 3 ≤ s.cfg.minFrame)
    (hlong : s.cfg.minFrame ≤ s.rxbuf.length) :
    nextPass s = .ok (passOf (decodeFrame s.cfg s.rxbuf)) := by
  obtain ⟨b0, kind, len, body, hb⟩ := long_buffer_cases s.rxbuf (hm.trans hlong)
  rw [nextPass_long s b0 kind len body hb (Nat.not_lt.mpr hlong), hb, decodeFrame_long]
  split_ifs with hsof hwait heof
  · rfl
  · rfl
  · rfl
  · simp [passOf, frameTotal, Nat.min_eq_left (Nat.not_le.mp hwait).le]

/-- A pass that drops takes one byte, and the loop goes on (R123, R126). -/
theorem reassembleFor_of_drop {s : State} (h : nextPass s = .ok .drop) (n : Nat) :
    reassembleFor (n + 1) s = reassembleFor n (s.bufDrop 1) := by
  simp [reassembleFor, h]

/-- Settles O32: both conditions make the pass drop a byte. -/
theorem resyncDropsOneByte : Obligations.ResyncDropsOneByte := by
  intro s n b0 kind len b3 tl hb hlong
  have hpass := nextPass_long s b0 kind len (b3 :: tl) hb (Nat.not_lt.mpr hlong)
  have hrest : s.bufDrop 1 = { s with rxbuf := kind :: len :: b3 :: tl } := by
    simp [State.bufDrop, hb]
  rw [← hrest]
  refine ⟨fun hsof => reassembleFor_of_drop ?_ n, fun hsof htotal heof => reassembleFor_of_drop ?_ n⟩
  · rw [hpass, if_pos hsof]
  · have hlen : ¬ (b3 :: tl).length ≤ len.toNat := by
      rw [hb, frameTotal] at htotal
      simp only [List.length_cons] at htotal ⊢
      omega
    have hlast : frameTotal len - 1 = len.toNat + 3 := rfl
    rw [hb, hlast] at heof
    rw [hpass, if_neg (not_not.mpr hsof), if_neg hlen, if_pos (by simpa using heof)]

/-- Settles O33: the pass is that of `decode`'s answer, and tells the answers apart. -/
theorem passAgreesWithDecode : Obligations.PassAgreesWithDecode := by
  refine ⟨nextPass_short, fun s hm hlong => ?_⟩
  have hanswer (r : DecodeResult) :
      decodeFrame s.cfg s.rxbuf = r ↔ nextPass s = .ok (passOf r) := by
    rw [nextPass_eq_passOf hm hlong, Except.ok.injEq, passOf_inj]
  exact ⟨hanswer .invalid, hanswer .incomplete, fun kind payload => hanswer (.frame kind payload)⟩

/-! ### `scan`, case by case (R129) -/

/-- More bytes behind a window change no answer but `Incomplete` (R104). -/
theorem decodeFrame_append_of_ne_incomplete {c : Config} {w : List Byte}
    (h : decodeFrame c w ≠ .incomplete) (more : List Byte) :
    decodeFrame c (w ++ more) = decodeFrame c w := by
  have hne : 1 ≤ w.length := List.length_pos_iff.mpr (by rintro rfl; exact h rfl)
  by_cases hsof : w[0]? = some c.sof
  · have hlong : 3 ≤ w.length := by
      by_contra hshort
      exact h (decodeFrame_of_no_length_byte (by omega) hsof)
    obtain ⟨b0, kind, len, body, rfl⟩ := long_buffer_cases w hlong
    refine decodeFrame_append (len := len) rfl ?_ more
    by_contra hwait
    have hbody : body.length ≤ len.toNat := by
      simp only [frameTotal, List.length_cons] at hwait
      omega
    have hb0 : b0 = c.sof := by simpa using hsof
    exact h (by rw [decodeFrame_long, if_neg (not_not.mpr hb0), if_pos hbody])
  · rw [decodeFrame_of_head_ne_sof hne hsof, decodeFrame_of_head_ne_sof (by simp; omega)
      (by rwa [List.getElem?_append_left hne])]

/-- Parked is where the loop stops: below `MIN_FRAME` bytes, or where `decode` waits (R36 I2, R122,
R124). -/
theorem parked_iff {c : Config} (hm : 3 ≤ c.minFrame) {buf : List Byte} :
    parked c buf = true ↔ buf.length < c.minFrame ∨ decodeFrame c buf = .incomplete := by
  by_cases hshort : buf.length < c.minFrame
  · simp [parked, hshort]
  · obtain ⟨b0, kind, len, body, rfl⟩ := long_buffer_cases buf (by omega)
    have hwait : body.length + 1 + 1 + 1 < len.toNat + 4 ↔ body.length ≤ len.toNat := by omega
    simp only [parked, hshort, decodeFrame_long, frameTotal]
    split_ifs <;> simp_all

/-- From as many passes as bytes on, `scanFor` does not depend on the bound (R127). -/
theorem scanFor_succ_of_length_le {c : Config} {n : Nat} {buf : List Byte} (h : buf.length ≤ n) :
    scanFor c (n + 1) buf = scanFor c n buf := by
  induction n generalizing buf with
  | zero =>
    obtain rfl := List.length_eq_zero_iff.mp (Nat.le_zero.mp h)
    simp [scanFor, decodeFrame]
  | succ n ih =>
    have hdrop (k : Nat) : scanFor c (n + 1) (buf.drop (k + 1)) = scanFor c n (buf.drop (k + 1)) :=
      ih (by rw [List.length_drop]; omega)
    conv_lhs => rw [scanFor]
    conv_rhs => rw [scanFor]
    split
    · rfl
    · split
      · rfl
      · exact hdrop 0
      · rw [hdrop]

/-- Any bound of at least as many passes as bytes gives the whole `scan` (R127). -/
theorem scanFor_eq_scan {c : Config} {n : Nat} {buf : List Byte} (h : buf.length ≤ n) :
    scanFor c n buf = scan c buf := by
  induction n, h using Nat.le_induction with
  | base => rfl
  | succ n hn ih => rw [scanFor_succ_of_length_le hn, ih]

section
variable {c : Config} {buf rest : List Byte}

/-- A parked buffer holds no frame and stays (R124). -/
theorem scan_of_parked (hm : 3 ≤ c.minFrame) (h : parked c buf = true) : scan c buf = ([], buf) := by
  rw [← scanFor_eq_scan (Nat.le_succ _), scanFor]
  rcases (parked_iff hm).1 h with hshort | hwait
  · rw [if_pos hshort]
  · simp [hwait]

/-- On `Invalid` one byte leaves (R123, R126). -/
theorem scan_of_invalid {b : Byte} (hlong : c.minFrame ≤ (b :: rest).length)
    (h : decodeFrame c (b :: rest) = .invalid) : scan c (b :: rest) = scan c rest := by
  rw [scan, List.length_cons, scanFor, if_neg (Nat.not_lt.mpr hlong), h]
  rfl

/-- A frame at the front is found first (R125). -/
theorem scan_frameBytes {kind : Byte} {payload : List Byte} (hlen : payload.length ≤ 255)
    (hlong : c.minFrame ≤ (frameBytes c kind payload ++ rest).length) :
    scan c (frameBytes c kind payload ++ rest) =
      ((kind, payload) :: (scan c rest).1, (scan c rest).2) := by
  rw [← scanFor_eq_scan (Nat.le_succ _), scanFor, if_neg (Nat.not_lt.mpr hlong),
    decodeFrame_frameBytes c kind hlen]
  have hrest : (frameBytes c kind payload ++ rest).drop (payload.length + 4) = rest :=
    List.drop_left' (frameBytes_length c kind payload)
  simp [hrest, scanFor_eq_scan]

/-- Packages the induction over the passes: what holds of parked buffers, and of a buffer where it holds of
what a pass leaves, holds of all. -/
theorem scan_induct (hm : 3 ≤ c.minFrame) {P : List Byte → Prop}
    (stop : ∀ buf, parked c buf = true → P buf)
    (drop : ∀ b rest, c.minFrame ≤ (b :: rest).length → decodeFrame c (b :: rest) = .invalid →
      P rest → P (b :: rest))
    (yield : ∀ kind payload rest, payload.length ≤ 255 →
      c.minFrame ≤ (frameBytes c kind payload ++ rest).length →
      P rest → P (frameBytes c kind payload ++ rest))
    (buf : List Byte) : P buf := by
  induction hn : buf.length using Nat.strong_induction_on generalizing buf with
  | _ n ih =>
    by_cases hlong : c.minFrame ≤ buf.length
    · cases hd : decodeFrame c buf with
      | incomplete => exact stop buf ((parked_iff hm).2 (.inr hd))
      | invalid =>
        obtain ⟨b, rest, rfl⟩ := List.exists_cons_of_length_pos (by omega : 0 < buf.length)
        exact drop b rest hlong hd (ih _ (by simp at hn; omega) rest rfl)
      | frame kind payload =>
        obtain ⟨hlen, rest, rfl⟩ := decodeFrame_eq_frame_iff.1 hd
        refine yield kind payload rest hlen hlong (ih _ ?_ rest rfl)
        rw [← hn, List.length_append, frameBytes_length]
        omega
    · exact stop buf ((parked_iff hm).2 (.inl (Nat.not_le.mp hlong)))

/-- What `scan` leaves is parked (R127). -/
theorem parked_scan (hm : 3 ≤ c.minFrame) (buf : List Byte) : parked c (scan c buf).2 = true := by
  induction buf using scan_induct hm with
  | stop buf h => rwa [scan_of_parked hm h]
  | drop b rest hlong hd ih => rwa [scan_of_invalid hlong hd]
  | yield kind payload rest hlen hlong ih => rwa [scan_frameBytes hlen hlong]

/-- Bytes that come later are scanned behind what was left (R130): the boundary between them and the bytes
before makes no difference. -/
theorem scan_append (hm : 3 ≤ c.minFrame) (buf more : List Byte) :
    scan c (buf ++ more) =
      ((scan c buf).1 ++ (scan c ((scan c buf).2 ++ more)).1, (scan c ((scan c buf).2 ++ more)).2) := by
  induction buf using scan_induct hm with
  | stop buf h => rw [scan_of_parked hm h, List.nil_append]
  | drop b rest hlong hd ih =>
    have hmore : decodeFrame c (b :: (rest ++ more)) = .invalid := by
      rw [← hd, ← List.cons_append, decodeFrame_append_of_ne_incomplete (by simp [hd])]
    rw [scan_of_invalid hlong hd, List.cons_append, scan_of_invalid (by simp at hlong ⊢; omega) hmore, ih]
  | yield kind payload rest hlen hlong ih =>
    rw [scan_frameBytes hlen hlong, List.append_assoc, scan_frameBytes hlen (by simp at hlong ⊢; omega), ih]
    rfl

/-- The frames found and the bytes left stand in the stream in this order (R120, R129). -/
theorem scan_sublist (hm : 3 ≤ c.minFrame) (buf : List Byte) :
    (frameStream c (scan c buf).1 ++ (scan c buf).2).Sublist buf := by
  induction buf using scan_induct hm with
  | stop buf h => simp [scan_of_parked hm h, frameStream]
  | drop b rest hlong hd ih => simpa [scan_of_invalid hlong hd] using ih.cons b
  | yield kind payload rest hlen hlong ih =>
    simpa [scan_frameBytes hlen hlong, frameStream] using ih

/-- The bytes left are the end of the stream. -/
theorem scan_left_suffix (hm : 3 ≤ c.minFrame) (buf : List Byte) : (scan c buf).2 <:+ buf := by
  induction buf using scan_induct hm with
  | stop buf h => rw [scan_of_parked hm h]
  | drop b rest hlong hd ih =>
    rw [scan_of_invalid hlong hd]
    exact ih.trans (List.suffix_cons b rest)
  | yield kind payload rest hlen hlong ih =>
    rw [scan_frameBytes hlen hlong]
    exact ih.trans (List.suffix_append _ rest)

/-- Each frame found stands in the stream whole (R63, R125). -/
theorem scan_frame_infix (hm : 3 ≤ c.minFrame) (buf : List Byte) :
    ∀ f ∈ (scan c buf).1, frameBytes c f.1 f.2 <:+: buf := by
  induction buf using scan_induct hm with
  | stop buf h => simp [scan_of_parked hm h]
  | drop b rest hlong hd ih =>
    rw [scan_of_invalid hlong hd]
    exact fun f hf => (ih f hf).trans (List.suffix_cons b rest).isInfix
  | yield kind payload rest hlen hlong ih =>
    rw [scan_frameBytes hlen hlong]
    rintro f (_ | ⟨_, hf⟩)
    · exact (List.prefix_append _ rest).isInfix
    · exact (ih f hf).trans (List.suffix_append _ rest).isInfix

end

/-! ### The loop is `scan` (R125, R127, R129) -/

/-- `s` with the frames of a scan yielded in order and its rest left in the buffer (R125, R147). -/
def State.afterScan (s : State) (r : List (Byte × List Byte) × List Byte) : State :=
  { s with
    rxbuf := r.2
    missCnt := if ∃ f ∈ r.1, classifyFrame s.cfg f.1 f.2 = .heartbeat then 0 else s.missCnt
    out := s.out ++ framesItems s.cfg r.1 }

section
variable (s : State) (r : List (Byte × List Byte) × List Byte)

@[simp] theorem State.afterScan_linkState : (s.afterScan r).linkState = s.linkState := rfl
@[simp] theorem State.afterScan_rxbuf : (s.afterScan r).rxbuf = r.2 := rfl
@[simp] theorem State.afterScan_out : (s.afterScan r).out = s.out ++ framesItems s.cfg r.1 := rfl
@[simp] theorem State.afterScan_cfg : (s.afterScan r).cfg = s.cfg := rfl

/-- A scan without frames writes the buffer only. -/
theorem State.afterScan_nil (left : List Byte) : s.afterScan ([], left) = { s with rxbuf := left } := by
  simp [State.afterScan, framesItems]

/-- Two scans, one after the other, yield the frames of both. -/
theorem State.afterScan_afterScan (fs : List (Byte × List Byte)) (left : List Byte) :
    (s.afterScan (fs, left)).afterScan r = s.afterScan (fs ++ r.1, r.2) := by
  have hbeat : (∃ f ∈ fs ++ r.1, classifyFrame s.cfg f.1 f.2 = .heartbeat) ↔
      (∃ f ∈ r.1, classifyFrame s.cfg f.1 f.2 = .heartbeat) ∨
        ∃ f ∈ fs, classifyFrame s.cfg f.1 f.2 = .heartbeat := by
    simp only [List.mem_append, or_and_right, exists_or, or_comm]
  simp only [State.afterScan, framesItems_append, List.append_assoc, hbeat, ite_or]
  congr

/-- The FRAME tap shows the frames of the scan (R33). -/
theorem tapFrames_newItems_afterScan : tapFrames (newItems s (s.afterScan r)) = r.1 := by
  rw [newItems_eq (s.afterScan_out r), tapFrames_framesItems]

/-- A yielded frame is a scan of one frame (R125). -/
theorem yieldFrame_eq_afterScan (kind : Byte) (payload : List Byte) (n : Nat) :
    yieldFrame kind payload n s = s.afterScan ([(kind, payload)], s.rxbuf.drop n) := by
  simp [yieldFrame_eq, State.afterScan, framesItems]

end

/-- The loop yields the frames that `scan` finds with as many passes, and leaves the same bytes (R129). -/
theorem reassembleFor_eq_scanFor {s : State} (hm : 3 ≤ s.cfg.minFrame) (n : Nat) :
    reassembleFor n s = .ok (s.afterScan (scanFor s.cfg n s.rxbuf)) := by
  induction n generalizing s with
  | zero => rw [reassembleFor, scanFor, State.afterScan_nil]
  | succ n ih =>
    rw [reassembleFor, scanFor]
    by_cases hshort : s.rxbuf.length < s.cfg.minFrame
    · rw [nextPass_short s hshort, if_pos hshort, State.afterScan_nil]
    · rw [nextPass_eq_passOf hm (Nat.not_lt.mp hshort), if_neg hshort]
      cases decodeFrame s.cfg s.rxbuf with
      | incomplete => simp only [passOf, State.afterScan_nil]
      | invalid => exact ih (s := s.bufDrop 1) hm
      | frame kind payload =>
        simp only [passOf, yieldFrame_eq_afterScan]
        rw [ih (by simpa using hm), State.afterScan_afterScan]
        rfl

/-- The whole loop is the whole `scan`. -/
theorem reassemble_eq_scan {s : State} (hm : 3 ≤ s.cfg.minFrame) :
    reassemble s = .ok (s.afterScan (scan s.cfg s.rxbuf)) := reassembleFor_eq_scanFor hm _

/-- Settles O34: the loop is `scan`, whose result does not depend on the bound and is parked. -/
theorem loopEndsParked : Obligations.LoopEndsParked := by
  intro s hwf
  have hm := three_le_minFrame hwf
  have hmin := wf_minFrame hwf
  have hparked : parked s.cfg (scan s.cfg s.rxbuf).2 = true := parked_scan hm s.rxbuf
  refine ⟨s.afterScan (scan s.cfg s.rxbuf), reassemble_eq_scan hm, fun n hn => ?_, hparked,
    length_le_of_parked (by omega) hparked⟩
  rw [reassembleFor_eq_scanFor hm, scanFor_eq_scan hn]

end Sys2Proof.Machine
end

section
/-! PROOFS. What an RX_CHUNK does (41_reassembler.md R120, R121, R125, R131), and what a sequence of them
does: chunk boundaries (R130) and a corrupted byte (R132). -/

namespace Sys2Proof.Machine

/-! ### One RX_CHUNK (R120, R121) -/

section
variable {s : State} {d : List Byte}

/-- Outside CONNECTED a chunk is discarded (R120). -/
theorem exec_rxChunk_of_not_connected (hlink : s.linkState ≠ .connected) :
    exec (.rxChunk d) s = .next s := if_pos hlink

/-- Past `RX_CAP` the old bytes and the chunk are lost (R121). -/
theorem exec_rxChunk_of_overflow (hlink : s.linkState = .connected)
    (hover : s.cfg.rxCap < s.rxbuf.length + d.length) :
    exec (.rxChunk d) s = .next { s with rxbuf := [] } := by
  have hrecv : receive d s = s.bufClear := by
    obtain ⟨-, h⟩ | ⟨hfit, -⟩ := receive_cases d s
    · exact h
    · omega
  rw [exec, execRxChunk, if_neg (not_not.mpr hlink), hrecv]
  rfl

/-- Up to `RX_CAP` bytes are kept, and their frames are yielded (R121, R129). -/
theorem exec_rxChunk_of_fits (hlink : s.linkState = .connected) (hm : 3 ≤ s.cfg.minFrame)
    (hfit : s.rxbuf.length + d.length ≤ s.cfg.rxCap) :
    exec (.rxChunk d) s = .next (s.afterScan (scan s.cfg (s.rxbuf ++ d))) := by
  have hrecv : receive d s = s.bufAppend d := by
    obtain ⟨hover, -⟩ | ⟨-, h⟩ := receive_cases d s
    · omega
    · exact h
  rw [exec, execRxChunk, if_neg (not_not.mpr hlink), hrecv,
    reassemble_eq_scan (s := s.bufAppend d) hm]
  rfl

end

/-- Settles O31, by the lemma of each of R121's cases. -/
theorem rxChunkDiscardsClearsOrReassembles : Obligations.RxChunkDiscardsClearsOrReassembles :=
  fun d s hm => ⟨exec_rxChunk_of_not_connected, exec_rxChunk_of_overflow, fun hlink hfit =>
    ⟨s.afterScan (scan s.cfg (s.rxbuf ++ d)), reassemble_eq_scan (s := s.bufAppend d) hm,
      exec_rxChunk_of_fits hlink hm hfit⟩⟩

/-- Settles O35: after an overflow there is no frame and no byte; else they are those of `scan`, whose
frames stand in the stream. -/
theorem rxChunkOutputsItsFramesInOrder : Obligations.RxChunkOutputsItsFramesInOrder := by
  intro d s hlink hm
  by_cases hover : s.cfg.rxCap < (s.rxbuf ++ d).length
  · refine ⟨[], [], (if_pos hover).symm, ?_, List.nil_sublist _, List.nil_suffix, nofun⟩
    rw [exec_rxChunk_of_overflow hlink (by simpa using hover), ← State.afterScan_nil]
    rfl
  · have hfit := Nat.not_lt.mp hover
    refine ⟨(scan s.cfg (s.rxbuf ++ d)).1, (scan s.cfg (s.rxbuf ++ d)).2, (if_neg hover).symm,
      exec_rxChunk_of_fits hlink hm (by simpa using hfit), scan_sublist hm _, scan_left_suffix hm _,
      fun f hf => ?_⟩
    have hin := scan_frame_infix hm _ f hf
    have hlen := hin.length_le
    rw [frameBytes_length] at hlen
    exact ⟨hin, hlen.trans hfit⟩

/-- Settles O36: a parked buffer within `RX_CAP` is scanned to itself. -/
theorem emptyChunkChangesNothing : Obligations.EmptyChunkChangesNothing := by
  intro s hinv
  have h := (State.inv_iff s).1 hinv
  by_cases hlink : s.linkState = .connected
  · have hm := three_le_minFrame h.wf
    have hfit : s.rxbuf.length + ([] : List Byte).length ≤ s.cfg.rxCap := by
      simpa [Memory.wf] using h.fits
    rw [exec_rxChunk_of_fits hlink hm hfit, List.append_nil, scan_of_parked hm h.parked,
      State.afterScan_nil]
  · exact exec_rxChunk_of_not_connected hlink

/-! ### A whole frame (R125, R140) -/

/-- A frame's class is executed as its dispatch (R140): both read the same fields, and a payload too short
for its kind's fields is malformed to both. -/
theorem exec_classifyFrame (kind : Byte) (payload : List Byte) (s : State) :
    exec (classifyFrame s.cfg kind payload) s = .next (dispatch kind payload s) := by
  unfold classifyFrame dispatch
  cases s.cfg.kindOf kind with
  | none => rfl
  | some k =>
    dsimp only
    split
    · rfl
    · cases k with
      | heartbeat => rfl
      | move =>
        match payload with
        | [] | [_] | [_, _] | [_, _, _] | [_, _, _, _] | [_, _, _, _, _] => rfl
        | _ :: _ :: _ :: _ :: _ :: _ :: _ => rfl
      | control | target =>
        match payload with
        | [] | [_] | [_, _] | [_, _, _] => rfl
        | _ :: _ :: _ :: _ :: _ => rfl

/-- A stream of whole frames is found whole, and nothing is left (R125, R129). -/
theorem scan_frameStream {c : Config} (hm : c.minFrame = 4) {fs : List (Byte × List Byte)}
    (hlen : ∀ f ∈ fs, f.2.length ≤ 255) : scan c (frameStream c fs) = (fs, []) := by
  induction fs with
  | nil => exact scan_of_parked (by omega) (parked_nil (by omega))
  | cons f fs ih =>
    rw [List.forall_mem_cons] at hlen
    rw [frameStream, scan_frameBytes hlen.1 (by simp [hm]; omega), ih hlen.2]

/-- A chunk that is one whole frame is shown on the FRAME tap, and its class is executed (R125, R140). -/
theorem exec_rxChunk_frameBytes {s : State} {kind : Byte} {payload : List Byte}
    (hlink : s.linkState = .connected) (hbuf : s.rxbuf = []) (hwf : s.cfg.wf = true)
    (hlen : payload.length ≤ 255) (hcap : payload.length + 4 ≤ s.cfg.rxCap) :
    exec (.rxChunk (frameBytes s.cfg kind payload)) s =
      exec (classifyFrame s.cfg kind payload) (s.emit (.frame kind payload)) := by
  have hscan : scan s.cfg (frameBytes s.cfg kind payload) = ([(kind, payload)], []) := by
    simpa [frameStream] using
      scan_frameStream (wf_minFrame hwf) (fs := [(kind, payload)]) (by simpa using hlen)
  calc exec (.rxChunk (frameBytes s.cfg kind payload)) s
      = .next (s.afterScan ([(kind, payload)], [])) := by
        rw [exec_rxChunk_of_fits hlink (three_le_minFrame hwf) (by simpa [hbuf] using hcap), hbuf,
          List.nil_append, hscan]
    _ = .next (yieldFrame kind payload 0 s) := by
        rw [yieldFrame_eq_afterScan, hbuf, List.drop_nil]
    _ = exec (classifyFrame s.cfg kind payload) (s.emit (.frame kind payload)) :=
        (exec_classifyFrame kind payload (s.emit (.frame kind payload))).symm

/-- Settles O29: the step takes the chunk from the port and executes it. -/
theorem stepRunsAReceivedFrameAsItsInstruction :
    Obligations.StepRunsAReceivedFrameAsItsInstruction := by
  intro s kind payload rest hlink hbuf hwf hlen hcap hmax hport
  have hword : decodeEvent s.cfg s.port = .ok (.rxChunk (frameBytes s.cfg kind payload), rest) := by
    rw [hport]
    exact decodeEvent_encodeEvent rfl (by simp [Instr.wf, hmax]; omega) rest
  rw [step_of_decodeEvent hword]
  exact exec_rxChunk_frameBytes (s := { s with port := rest }) hlink hbuf hwf hlen hcap

/-! ### A sequence of chunks (R130) -/

/-- The first chunk of a sequence without an overflow clear fits, and none fires behind it. -/
theorem noOverflow_cons {d : List Byte} {cs : List (List Byte)} {s : State}
    (h : noOverflow (d :: cs) s = true) :
    s.rxbuf.length + d.length ≤ s.cfg.rxCap ∧
      ∀ t, exec (.rxChunk d) s = .next t → noOverflow cs t = true := by
  rw [noOverflow, Bool.and_eq_true, decide_eq_true_eq] at h
  obtain ⟨hfit, hrest⟩ := h
  refine ⟨hfit, fun t ht => ?_⟩
  rwa [ht] at hrest

/-- Without an overflow clear a sequence of chunks does what one scan of all its bytes does (R130). -/
theorem runChunks_eq_scan {cs : List (List Byte)} {s : State} (hlink : s.linkState = .connected)
    (hm : 3 ≤ s.cfg.minFrame) (hparked : parked s.cfg s.rxbuf = true) (h : noOverflow cs s = true) :
    runChunks cs s = .next (s.afterScan (scan s.cfg (s.rxbuf ++ cs.flatten))) := by
  induction cs generalizing s with
  | nil =>
    rw [List.flatten_nil, List.append_nil, scan_of_parked hm hparked, State.afterScan_nil]
    rfl
  | cons d cs ih =>
    obtain ⟨hfit, hrest⟩ := noOverflow_cons h
    have hexec := exec_rxChunk_of_fits hlink hm hfit
    have hrun := ih (s := s.afterScan (scan s.cfg (s.rxbuf ++ d))) hlink hm (parked_scan hm _)
      (hrest _ hexec)
    rw [List.flatten_cons, ← List.append_assoc, scan_append hm, ← State.afterScan_afterScan]
    rw [runChunks, List.map_cons, runEvents, hexec]
    exact hrun

/-- A connected block with an empty buffer of capacity 8, for R130's example. -/
def capEight : State :=
  { State.resetWith (Config.hardware 8 65535 1 1 { host := [], port := 0 }) with
    linkState := .connected }

/-- Settles O37: both runs do what the scan of their bytes does. In R130's example the bytes come one by
one, or as one chunk of more than 8. -/
theorem fragmentationIndependence : Obligations.FragmentationIndependence := by
  refine ⟨fun cs ds s hlink hinv hflat hcs hds => ?_, capEight, capEight.afterScan
    (scan capEight.cfg [0xAA, 0x00, 0x00, 0x55, 0xAA, 0x00, 0x00, 0x55, 0xAA, 0x00, 0x00, 0x55]),
    { capEight with rxbuf := [] }, rfl, by decide, rfl,
    runChunks_eq_scan rfl (by decide) (by decide) (by decide), ?_, ?_, by simp [tapFrames, newItems]⟩
  · have h := (State.inv_iff s).1 hinv
    have hm := three_le_minFrame h.wf
    rw [runChunks_eq_scan hlink hm h.parked hcs, runChunks_eq_scan hlink hm h.parked hds, hflat]
  · rw [runChunks, List.map_cons, runEvents, exec_rxChunk_of_overflow rfl (by decide)]
    rfl
  · rw [tapFrames_newItems_afterScan]
    decide

/-! ### One corrupted byte (R132) -/

/-- A buffer of at least 259 bytes is not waiting: a pass takes at least one byte of it, and at most the
longest frame (R106, R127). -/
theorem scan_first_pass {c : Config} (hm : c.minFrame = 4) {buf : List Byte} (h : 259 ≤ buf.length) :
    ∃ m fs, 1 ≤ m ∧ m ≤ 259 ∧ (scan c buf).1 = fs ++ (scan c (buf.drop m)).1 := by
  induction buf using scan_induct (c := c) (by omega) with
  | stop buf hparked =>
    have := length_le_of_parked (by omega) hparked
    omega
  | drop b rest hlong hd =>
    exact ⟨1, [], le_rfl, by omega, by rw [scan_of_invalid hlong hd]; rfl⟩
  | yield kind payload rest hlen hlong =>
    refine ⟨payload.length + 4, [(kind, payload)], by omega, by omega, ?_⟩
    rw [scan_frameBytes hlen hlong, List.drop_left' (frameBytes_length c kind payload)]
    rfl

/-- Resynchronisation: whatever the stream holds, in every stretch of 259 bytes of it the loop has a pass
that begins there, since no pass takes more (R106, R129). -/
theorem scan_passes_within {c : Config} (hm : c.minFrame = 4) (n : Nat) (buf : List Byte)
    (h : n + 259 ≤ buf.length) :
    ∃ q fs, n < q ∧ q ≤ n + 259 ∧ (scan c buf).1 = fs ++ (scan c (buf.drop q)).1 := by
  induction n using Nat.strong_induction_on generalizing buf with
  | _ n ih =>
    obtain ⟨m, fs, hpos, hle, hpass⟩ := scan_first_pass hm (buf := buf) (by omega)
    by_cases hlast : n < m
    · exact ⟨m, fs, hlast, by omega, hpass⟩
    · obtain ⟨q, gs, hlt, hwithin, hscan⟩ :=
        ih (n - m) (by omega) (buf.drop m) (by rw [List.length_drop]; omega)
      refine ⟨m + q, fs ++ gs, by omega, by omega, ?_⟩
      rw [hpass, hscan, List.drop_drop, List.append_assoc]

/-- The check of R132 (iii) taken apart: the length byte says the length, and no later byte is SOF. -/
theorem sofOnlyAtStart_iff {c : Config} {f : Byte × List Byte} :
    sofOnlyAtStart c f = true ↔ f.2.length ≤ 255 ∧ c.sof ∉ (frameBytes c f.1 f.2).tail := by
  simp [sofOnlyAtStart]

/-- Where SOF stands only at frame starts, a scan that begins inside a frame finds every later frame:
up to the next frame's start each byte is dropped (R123). -/
theorem scan_behind_sofless {c : Config} (hm : c.minFrame = 4) {fs : List (Byte × List Byte)}
    (hlen : ∀ f ∈ fs, f.2.length ≤ 255) {y : List Byte} (hy : c.sof ∉ y) :
    (scan c (y ++ frameStream c fs)).1 = fs := by
  induction y with
  | nil => rw [List.nil_append, scan_frameStream hm hlen]
  | cons b y ih =>
    rw [List.mem_cons, not_or] at hy
    obtain ⟨hb, hy⟩ := hy
    by_cases hlong : c.minFrame ≤ (b :: (y ++ frameStream c fs)).length
    · have hd : decodeFrame c (b :: (y ++ frameStream c fs)) = .invalid :=
        decodeFrame_of_head_ne_sof (Nat.succ_pos _) (by simpa using Ne.symm hb)
      rw [List.cons_append, scan_of_invalid hlong hd, ih hy]
    · rw [List.cons_append,
        scan_of_parked (by omega) ((parked_iff (by omega)).2 (.inl (Nat.not_le.mp hlong)))]
      match fs, hlong with
      | [], _ => rfl
      | f :: fs, hlong =>
        simp [frameStream, hm] at hlong
        omega

/-- A stream of frames in which SOF stands only at frame starts, cut anywhere: what is left of one frame
without a SOF, and the frames behind it. -/
theorem frameStream_drop {c : Config} {fs : List (Byte × List Byte)}
    (hsof : ∀ f ∈ fs, sofOnlyAtStart c f = true) {q : Nat} (hq : q ≤ (frameStream c fs).length) :
    ∃ y post, post <:+ fs ∧ c.sof ∉ y ∧ (frameStream c fs).drop q = y ++ frameStream c post := by
  induction fs generalizing q with
  | nil =>
    refine ⟨[], [], List.suffix_rfl, List.not_mem_nil, ?_⟩
    simp [frameStream]
  | cons f fs ih =>
    rw [List.forall_mem_cons] at hsof
    rw [frameStream, List.length_append] at hq
    rw [frameStream]
    cases q with
    | zero => exact ⟨[], f :: fs, List.suffix_rfl, List.not_mem_nil, rfl⟩
    | succ q =>
      by_cases hin : q + 1 ≤ (frameBytes c f.1 f.2).length
      · refine ⟨(frameBytes c f.1 f.2).drop (q + 1), fs, List.suffix_cons f fs, fun hmem => ?_,
          List.drop_append_of_le_length hin⟩
        rw [← List.drop_tail] at hmem
        exact (sofOnlyAtStart_iff.1 hsof.1).2 (List.mem_of_mem_drop hmem)
      · obtain ⟨y, post, hpost, hy, hdrop⟩ :=
          ih hsof.2 (q := q + 1 - (frameBytes c f.1 f.2).length) (by omega)
        refine ⟨y, post, hpost.trans (List.suffix_cons f fs), hy, ?_⟩
        rw [List.drop_append, List.drop_of_length_le (by omega), List.nil_append, hdrop]

/-- Settles O39: a pass of the scan begins behind the corrupted byte and within the lead
(`scan_passes_within`); the stream from there is uncorrupted, so every frame that starts there or later is
found. -/
theorem oneCorruptedByteLosesABoundedStretch :
    Obligations.OneCorruptedByteLosesABoundedStretch := by
  intro s lead tail c b cs hlink hwf hbuf hsof hc hcs hno
  have hm := wf_minFrame hwf
  have hparked : parked s.cfg s.rxbuf = true := hbuf ▸ parked_nil (by omega)
  have hrun := runChunks_eq_scan hlink (by omega) hparked hno
  rw [hbuf, List.nil_append, hcs] at hrun
  obtain ⟨q, found, hcq, hq, hscan⟩ := scan_passes_within hm c
    ((frameStream s.cfg (lead ++ tail)).set c b) (by simp; omega)
  obtain ⟨y, post, ⟨pre, hpost⟩, hy, hdrop⟩ :=
    frameStream_drop (fun f hf => hsof f (List.mem_append_left _ hf)) (hq.trans hc)
  have hclean : ((frameStream s.cfg (lead ++ tail)).set c b).drop q =
      y ++ frameStream s.cfg (post ++ tail) := by
    rw [List.drop_set_of_lt hcq, frameStream_append, List.drop_append_of_le_length (hq.trans hc),
      hdrop, List.append_assoc, frameStream_append]
  have hlen : ∀ f ∈ post ++ tail, f.2.length ≤ 255 := fun f hf =>
    (sofOnlyAtStart_iff.1 (hsof f (by
      rw [← hpost, List.append_assoc]
      exact List.mem_append_right _ hf))).1
  refine ⟨_, found ++ post, hrun, ?_⟩
  rw [tapFrames_newItems_afterScan, hscan, hclean, scan_behind_sofless hm hlen hy, List.append_assoc]

end Sys2Proof.Machine
end

section
/-! PROOFS. The Command Model (42_dispatch.md R140 to R146): which class a received frame is of by the tabled
kinds and lengths, what each class does, and dispatch as the execution of that class. -/

namespace Sys2Proof.Machine

/-! ### The tabled kinds (R74) -/

section
variable {c : Config} {kind : Byte}

/-- With the tabled lengths no payload is longer than its fields, so nothing is filled (log entry 3). -/
theorem kindPayload_of_framesTabled (h : c.framesTabled = true) (k : FrameKind) (fields : List Byte) :
    kindPayload c k fields = fields := by
  obtain ⟨-, -, -, -, lhb, lmv, lct, ltg⟩ := (framesTabled_iff c).1 h
  cases k <;> simp [kindPayload, Config.kindLen, FrameKind.fieldBytes, lhb, lmv, lct, ltg]

/-- With the tabled numbers every kind is known by its own number. -/
theorem kindOf_kindCode (h : c.framesTabled = true) (k : FrameKind) :
    c.kindOf (c.kindCode k) = some k :=
  (hasKind_iff.1 (hasKind_of_framesTabled h k)).1

/-- The known kinds are `00` to `03` (R74, R81). -/
theorem lt_four_iff_exists_kindOf (h : c.framesTabled = true) :
    kind.toNat < 4 ↔ ∃ k, c.kindOf kind = some k := by
  constructor
  · intro hlt
    by_contra hunknown
    have hge := four_le_of_kindOf_none h (Option.eq_none_iff_forall_ne_some.2 (not_exists.1 hunknown))
    omega
  · rintro ⟨k, hk⟩
    obtain ⟨hb, mv, ct, tg, -⟩ := (framesTabled_iff c).1 h
    rw [kindOf_eq_some hk]
    cases k <;> simp [Config.kindCode, hb, mv, ct, tg]

/-- A kind from `04` on is not known (R81). -/
theorem kindOf_eq_none_of_four_le (h : c.framesTabled = true) (hge : 4 ≤ kind.toNat) :
    c.kindOf kind = none := by
  by_contra hknown
  have hlt := (lt_four_iff_exists_kindOf h).2 (Option.ne_none_iff_exists'.1 hknown)
  omega

end

/-! ### Dispatch by class (R140) -/

section
variable {kind : Byte} {payload : List Byte} {s : State}

/-- Dispatch gives what the execution of the frame's class gives. -/
theorem dispatch_of_class {i : Instr} {t : State} (hclass : classifyFrame s.cfg kind payload = i)
    (hexec : exec i s = .next t) : dispatch kind payload s = t := by
  have h := exec_classifyFrame kind payload s
  rw [hclass, hexec] at h
  exact (Host.Outcome.next.inj h).symm

end

/-- Settles O28, by `exec_classifyFrame`. -/
theorem dispatchRunsTheClassOfTheFrame : Obligations.DispatchRunsTheClassOfTheFrame :=
  exec_classifyFrame

/-- Settles O27: a kind's number and exact length select its class, whose execution dispatch is; any other
length makes the frame malformed, and a kind from `04` on is not known. -/
theorem dispatchSelectsByKindAndSize : Obligations.DispatchSelectsByKindAndSize := by
  intro payload s htabled
  obtain ⟨hb, mv, ct, tg, lhb, lmv, lct, ltg⟩ := (framesTabled_iff s.cfg).1 htabled
  have hkHeartbeat : s.cfg.kindOf 0x00 = some .heartbeat := hb ▸ kindOf_kindHeartbeat s.cfg
  have hkMove : s.cfg.kindOf 0x01 = some .move := mv ▸ kindOf_kindCode htabled .move
  have hkControl : s.cfg.kindOf 0x02 = some .control := ct ▸ kindOf_kindCode htabled .control
  have hkTarget : s.cfg.kindOf 0x03 = some .target := tg ▸ kindOf_kindCode htabled .target
  refine ⟨?heartbeat, ?move, ?moveLength, ?control, ?controlLength, ?target, ?targetLength,
    ?unassigned⟩
  case heartbeat =>
    split
    next hlen => exact dispatch_of_class (classifyFrame_heartbeat hkHeartbeat (hlen.trans lhb.symm)) rfl
    next hlen => exact dispatch_of_malformed hkHeartbeat fun h => hlen (h.trans lhb)
  case move =>
    intro hlen
    obtain ⟨f0, f1, l0, l1, r0, r1, rfl⟩ := length_six hlen
    exact ⟨_, _, _, rfl, rfl, rfl, dispatch_of_class (classifyFrame_move hkMove lmv.symm) rfl⟩
  case moveLength => exact fun hlen => dispatch_of_malformed hkMove fun h => hlen (h.trans lmv)
  case control =>
    intro hlen
    obtain ⟨p, q, mode, reserved, rfl⟩ := length_four hlen
    exact ⟨_, _, _, _, rfl, rfl, rfl, rfl,
      dispatch_of_class (classifyFrame_control hkControl lct.symm) rfl⟩
  case controlLength => exact fun hlen => dispatch_of_malformed hkControl fun h => hlen (h.trans lct)
  case target =>
    intro hlen
    obtain ⟨x0, x1, y0, y1, rfl⟩ := length_four hlen
    exact ⟨_, _, rfl, rfl, dispatch_of_class (classifyFrame_target hkTarget ltg.symm) rfl⟩
  case targetLength => exact fun hlen => dispatch_of_malformed hkTarget fun h => hlen (h.trans ltg)
  case unassigned =>
    exact fun kind hge => dispatch_of_unassigned (kindOf_eq_none_of_four_le htabled hge)

/-! ### What each class does (R141 to R146) -/

/-- Settles O24: the frame is the Heartbeat's wire frame, and the echo always encodes. -/
theorem heartbeatFrameIsEchoedAndClearsMisses :
    Obligations.HeartbeatFrameIsEchoedAndClearsMisses := by
  refine fun s => ⟨fun htabled => ?_, ?_⟩
  · obtain ⟨hb, -⟩ := (framesTabled_iff s.cfg).1 htabled
    have hword : encode s.cfg .heartbeat = [s.cfg.sof, 0x00, 0x00, s.cfg.eof] := by
      simp [encode, framePart, frameBytes, kindPayload_of_framesTabled htabled, hb]
    exact ⟨decodeFrameInstr_of_word hword rfl (hasKind_of_framesTabled htabled .heartbeat), hb⟩
  · have hecho : dispHeartbeat s =
        State.emit { s with missCnt := 0 } (.tx (frameBytes s.cfg s.cfg.kindHeartbeat [])) :=
      State.emitHeartbeat_eq { s with missCnt := 0 }
    exact congrArg Host.Outcome.next hecho

/-- Settles O25: each word is its class's wire frame, and the class's meaning is one CMD item. -/
theorem commandFramesGiveTheirCommands : Obligations.CommandFramesGiveTheirCommands := by
  refine ⟨fun f l r s => ⟨fun htabled => ?move, rfl⟩,
    fun p q mode reserved s => ⟨fun htabled => ?control, rfl⟩,
    fun x y s => ⟨fun htabled => ?target, rfl⟩⟩
  all_goals obtain ⟨-, mv, ct, tg, -⟩ := (framesTabled_iff s.cfg).1 htabled
  case move =>
    refine decodeFrameInstr_of_word ?_ rfl (hasKind_of_framesTabled htabled .move)
    simp [encode, framePart, frameBytes, kindPayload_of_framesTabled htabled, mv, wrI16]
  case control =>
    refine decodeFrameInstr_of_word ?_ rfl (hasKind_of_framesTabled htabled .control)
    simp [encode, framePart, frameBytes, kindPayload_of_framesTabled htabled, ct]
  case target =>
    refine decodeFrameInstr_of_word ?_ rfl (hasKind_of_framesTabled htabled .target)
    simp [encode, framePart, frameBytes, kindPayload_of_framesTabled htabled, tg, wrI16]

/-- Settles O26: neither class has an item or clears the misses, so yielding them is the drop and the tap
(`yieldFrame_eq`). -/
theorem malformedAndUnassignedFramesDoNothing :
    Obligations.MalformedAndUnassignedFramesDoNothing := by
  refine fun kind payload n s => ⟨rfl, rfl, ?malformed, lt_four_iff_exists_kindOf, ?unassigned⟩
  case malformed =>
    rintro ⟨k, hk, hlen⟩
    have hclass := classifyFrame_malformed s.cfg kind payload k hk hlen
    exact ⟨hclass, by simp [yieldFrame_eq, frameItems, dispatchItems, hclass]⟩
  case unassigned =>
    intro hk
    have hclass := classifyFrame_unassigned s.cfg kind payload hk
    exact ⟨hclass, by simp [yieldFrame_eq, frameItems, dispatchItems, hclass]⟩

end Sys2Proof.Machine
end

section
/-! PROOFS. What each event of the Link Supervisor does in each link state (43_supervisor.md R160 to
R172), and the retry timing law (R174). -/

namespace Sys2Proof.Machine

section
variable {s : State}

/-! ### The requests and the transport's reports (R160 to R165) -/

theorem exec_connectReq_of_disconnected (hlink : s.linkState = .disconnected) :
    exec .connectReq s = .next { s with
      linkState := .connecting
      out := s.out ++ [.tpc .connect, .status false .connecting .connectRequested] } := by
  simp [exec, execConnectReq, hlink, enterConnecting_eq]

/-- A request does not cut short an attempt, a session or the retry timer (R160). -/
theorem exec_connectReq_of_not_disconnected (hlink : s.linkState ≠ .disconnected) :
    exec .connectReq s = .next s := by
  cases h : s.linkState with
  | disconnected => exact absurd h hlink
  | connecting | connected | reconnecting => simp [exec, execConnectReq, h]

/-- A session or an attempt is closed (R161). -/
theorem exec_disconnectReq_of_open (hlink : s.linkState = .connected ∨ s.linkState = .connecting) :
    exec .disconnectReq s = .next { s with
      linkState := .disconnected
      out := s.out ++ [.tpc .disconnect, .status false .disconnected .userDisconnect] } := by
  rcases hlink with h | h <;> simp [exec, execDisconnectReq, h, enterDisconnected_eq]

/-- Between two attempts nothing is open to close (R161). -/
theorem exec_disconnectReq_of_reconnecting (hlink : s.linkState = .reconnecting) :
    exec .disconnectReq s = .next { s with
      linkState := .disconnected
      out := s.out ++ [.status false .disconnected .userDisconnect] } := by
  simp [exec, execDisconnectReq, hlink, enterDisconnected_eq]

theorem exec_disconnectReq_of_disconnected (hlink : s.linkState = .disconnected) :
    exec .disconnectReq s = .next s := by
  simp [exec, execDisconnectReq, hlink]

/-- The entry into CONNECTED starts with nothing received, no miss and phase 0 (R162, R163). -/
theorem exec_tpUp_of_connecting (hlink : s.linkState = .connecting) :
    exec .tpUp s = .next { s with
      linkState := .connected
      rxbuf := []
      missCnt := 0
      hbDiv := 0
      out := s.out ++ [.status true .connected .connected] } := by
  simp [exec, execTpUp, hlink, enterConnected_eq]

theorem exec_tpUp_of_not_connecting (hlink : s.linkState ≠ .connecting) :
    exec .tpUp s = .next s := by
  cases h : s.linkState with
  | connecting => exact absurd h hlink
  | disconnected | connected | reconnecting => simp [exec, execTpUp, h]

theorem exec_tpDown_of_connected (hlink : s.linkState = .connected) :
    exec .tpDown s = .next { s with
      linkState := .reconnecting
      rtDiv := 0
      out := s.out ++ [.status false .reconnecting .transportLost] } := by
  simp [exec, execTpDown, hlink, enterReconnecting_eq]

theorem exec_tpDown_of_connecting (hlink : s.linkState = .connecting) :
    exec .tpDown s = .next { s with
      linkState := .reconnecting
      rtDiv := 0
      out := s.out ++ [.status false .reconnecting .connectFailed] } := by
  simp [exec, execTpDown, hlink, enterReconnecting_eq]

/-- Where nothing is open, nothing is lost (R161, R164). -/
theorem exec_tpDown_of_closed (hlink : s.linkState = .disconnected ∨ s.linkState = .reconnecting) :
    exec .tpDown s = .next s := by
  rcases hlink with h | h <;> simp [exec, execTpDown, h]

/-! ### TICK (R169 to R172) -/

/-- No timer runs (R28, R169). -/
theorem exec_tick_of_no_timer (hlink : s.linkState = .disconnected ∨ s.linkState = .connecting) :
    exec .tick s = .next s := by
  rcases hlink with h | h <;> simp [exec, execTick, h]

/-- Below the period the heartbeat phase advances (R170). -/
theorem exec_tick_phase (hlink : s.linkState = .connected) (hphase : s.hbDiv + 1 ≠ s.cfg.hbPeriod) :
    exec .tick s = .next { s with hbDiv := s.hbDiv + 1 } := by
  simp [exec, execTick, hlink, connectedTick, hphase]

/-- At the period, with the new miss within the limit, a Heartbeat is sent (R171). -/
theorem exec_tick_probe (hlink : s.linkState = .connected) (hphase : s.hbDiv + 1 = s.cfg.hbPeriod)
    (hmiss : s.missCnt + 1 ≤ s.cfg.hbMissLimit) :
    exec .tick s = .next { s with
      hbDiv := 0
      missCnt := s.missCnt + 1
      out := s.out ++ [.tx [s.cfg.sof, s.cfg.kindHeartbeat, 0x00, s.cfg.eof]] } := by
  simp [exec, execTick, hlink, connectedTick, hphase, heartbeatTick, Nat.not_lt.mpr hmiss,
    State.emitHeartbeat_eq, State.emit, frameBytes]

/-- At the period, with the new miss over the limit, the session is given up (R171). -/
theorem exec_tick_timeout (hlink : s.linkState = .connected) (hphase : s.hbDiv + 1 = s.cfg.hbPeriod)
    (hmiss : s.cfg.hbMissLimit < s.missCnt + 1) :
    exec .tick s = .next { s with
      linkState := .reconnecting
      hbDiv := 0
      missCnt := s.missCnt + 1
      rtDiv := 0
      out := s.out ++ [.tpc .abort, .status false .reconnecting .heartbeatTimeout] } := by
  simp [exec, execTick, hlink, connectedTick, hphase, heartbeatTick, hmiss, enterReconnecting_eq,
    State.emit]

/-- Below the retry period only the retry timer advances (R172). -/
theorem exec_tick_wait (hlink : s.linkState = .reconnecting)
    (hphase : s.rtDiv + 1 ≠ s.cfg.retryPeriod) :
    exec .tick s = .next { s with rtDiv := s.rtDiv + 1 } := by
  simp [exec, execTick, hlink, reconnectingTick, hphase]

/-- At the retry period the next attempt is made (R172). -/
theorem exec_tick_retry (hlink : s.linkState = .reconnecting)
    (hphase : s.rtDiv + 1 = s.cfg.retryPeriod) :
    exec .tick s = .next { s with
      linkState := .connecting
      rtDiv := 0
      out := s.out ++ [.tpc .connect, .status false .connecting .retry] } := by
  simp [exec, execTick, hlink, reconnectingTick, hphase, enterConnecting_eq]

end

/-- Settles O40: the one-byte event word, and the lemma of each case. -/
theorem connectReqStartsAnAttemptOnlyWhenDisconnected :
    Obligations.ConnectReqStartsAnAttemptOnlyWhenDisconnected :=
  fun _ => ⟨decodeEvent_encodeEvent (i := .connectReq) rfl rfl, exec_connectReq_of_disconnected,
    exec_connectReq_of_not_disconnected⟩

/-- Settles O41: the one-byte event word, and the lemma of each case; in DISCONNECTED the later
TP_DOWN is ignored. -/
theorem disconnectReqClosesWhatIsOpen : Obligations.DisconnectReqClosesWhatIsOpen :=
  fun _ => ⟨decodeEvent_encodeEvent (i := .disconnectReq) rfl rfl, exec_disconnectReq_of_open,
    exec_disconnectReq_of_reconnecting,
    fun hlink => ⟨exec_disconnectReq_of_disconnected hlink, exec_tpDown_of_closed (.inl hlink)⟩⟩

/-- Settles O42: the one-byte event word, and the lemma of each case. -/
theorem tpUpEntersConnectedFromConnectingOnly : Obligations.TpUpEntersConnectedFromConnectingOnly :=
  fun _ => ⟨decodeEvent_encodeEvent (i := .tpUp) rfl rfl, exec_tpUp_of_connecting,
    exec_tpUp_of_not_connecting⟩

/-- Settles O43: the one-byte event word, and the lemma of each case. -/
theorem tpDownEntersReconnecting : Obligations.TpDownEntersReconnecting :=
  fun _ => ⟨decodeEvent_encodeEvent (i := .tpDown) rfl rfl, exec_tpDown_of_connected,
    exec_tpDown_of_connecting, exec_tpDown_of_closed⟩

/-- Settles O44: the one-byte event word, and the lemma of each link state and comparison. -/
theorem tickAdvancesTheRunningTimer : Obligations.TickAdvancesTheRunningTimer :=
  fun _ => ⟨decodeEvent_encodeEvent (i := .tick) rfl rfl, exec_tick_of_no_timer, exec_tick_phase,
    exec_tick_probe, exec_tick_timeout, exec_tick_wait, exec_tick_retry⟩

/-! ### The retry timing law (R174) -/

/-- Below the retry period each TICK only advances the retry timer. -/
theorem runEvents_ticks_wait {k : Nat} {s : State} (hlink : s.linkState = .reconnecting)
    (hlt : s.rtDiv + k < s.cfg.retryPeriod) :
    runEvents (List.replicate k .tick) s = .next { s with rtDiv := s.rtDiv + k } := by
  induction k generalizing s with
  | zero => rfl
  | succ k ih =>
    have hnext := ih (s := { s with rtDiv := s.rtDiv + 1 }) hlink (by dsimp only; omega)
    simpa only [List.replicate_succ, runEvents, exec_tick_wait hlink (by omega), Nat.add_assoc,
      Nat.add_comm 1] using hnext

/-- In CONNECTING no TICK does anything (R169). -/
theorem runEvents_ticks_connecting {s : State} (hlink : s.linkState = .connecting) (k : Nat) :
    runEvents (List.replicate k .tick) s = .next s := by
  induction k with
  | zero => rfl
  | succ k ih =>
    simpa only [List.replicate_succ, runEvents, exec_tick_of_no_timer (.inr hlink)] using ih

/-- Settles O48: `RETRY_PERIOD - 1` ticks wait, the next one retries, and those behind it find
CONNECTING. -/
theorem retryComesAtItsTick : Obligations.RetryComesAtItsTick := by
  intro k s hlink hzero hpos
  have hwait : ∀ n < s.cfg.retryPeriod,
      runEvents (List.replicate n .tick) s = .next { s with rtDiv := n } := fun n hn => by
    simpa only [hzero, Nat.zero_add] using
      runEvents_ticks_wait hlink (show s.rtDiv + n < s.cfg.retryPeriod by omega)
  refine ⟨hwait k, fun hle => ?_⟩
  have hsplit : List.replicate k Instr.tick = List.replicate (s.cfg.retryPeriod - 1) .tick ++
      .tick :: List.replicate (k - s.cfg.retryPeriod) .tick := by
    rw [← List.replicate_succ, List.replicate_append_replicate]
    congr 1
    omega
  have hretry := exec_tick_retry (s := { s with rtDiv := s.cfg.retryPeriod - 1 }) hlink
    (Nat.sub_add_cancel hpos)
  rw [hsplit, runEvents_append, hwait _ (by omega)]
  simp only [runEvents, hretry, runEvents_ticks_connecting, hzero]

end Sys2Proof.Machine
end

section
/-! PROOFS. The transition relation (43_supervisor.md R167): each change of the link state is a row of
it, and nothing else shows a transition's items; after a user disconnect there is no transition (R168). -/

namespace Sys2Proof.Machine

/-! ### The items of a transition (R166, R175, R176) -/

/-- The items that only a transition appends: transport commands and status events. -/
def OutItem.ofTransition : OutItem → Bool
  | .tpc _ | .status _ _ _ => true
  | .tx _ | .frame _ _ | .cmd _ | .err _ => false

/-- A frame's dispatch is no transition (R147). -/
theorem ofTransition_of_mem_dispatchItems {c : Config} {k : Byte} {p : List Byte} :
    ∀ o ∈ dispatchItems c k p, o.ofTransition = false := by
  unfold dispatchItems
  split <;> simp [OutItem.ofTransition]

/-- Nor is the loop. -/
theorem ofTransition_of_mem_framesItems {c : Config} {fs : List (Byte × List Byte)} :
    ∀ o ∈ framesItems c fs, o.ofTransition = false := by
  induction fs with
  | nil => nofun
  | cons f fs ih =>
    intro o ho
    simp only [framesItems, frameItems, List.cons_append, List.mem_cons, List.mem_append] at ho
    rcases ho with rfl | hdispatch | hrest
    · rfl
    · exact ofTransition_of_mem_dispatchItems o hdispatch
    · exact ih o hrest

section
variable {i : Instr} {s t : State}

/-- The effects that change the link state are the rows of R167. -/
theorem Effect.exists_row (heff : Effect s i t) (hne : t.linkState ≠ s.linkState) :
    ∃ r ∈ transitionTable, r.source = s.linkState ∧ r.event = i ∧ r.target = t.linkState ∧
      newItems s t = r.items := by
  cases heff with
  | connect hlink =>
    exact ⟨⟨.disconnected, .connectReq, .connecting, some .connect, .connectRequested⟩, by decide,
      hlink.symm, rfl, rfl, newItems_eq rfl⟩
  | close hlink =>
    rcases hlink with hlink | hlink
    · exact ⟨⟨.connected, .disconnectReq, .disconnected, some .disconnect, .userDisconnect⟩,
        by decide, hlink.symm, rfl, rfl, newItems_eq rfl⟩
    · exact ⟨⟨.connecting, .disconnectReq, .disconnected, some .disconnect, .userDisconnect⟩,
        by decide, hlink.symm, rfl, rfl, newItems_eq rfl⟩
  | giveUp hlink =>
    exact ⟨⟨.reconnecting, .disconnectReq, .disconnected, none, .userDisconnect⟩, by decide,
      hlink.symm, rfl, rfl, newItems_eq rfl⟩
  | up hlink =>
    exact ⟨⟨.connecting, .tpUp, .connected, none, .connected⟩, by decide,
      hlink.symm, rfl, rfl, newItems_eq rfl⟩
  | down _ hlink =>
    rcases hlink with ⟨hlink, rfl⟩ | ⟨hlink, rfl⟩
    · exact ⟨⟨.connected, .tpDown, .reconnecting, none, .transportLost⟩, by decide,
        hlink.symm, rfl, rfl, newItems_eq rfl⟩
    · exact ⟨⟨.connecting, .tpDown, .reconnecting, none, .connectFailed⟩, by decide,
        hlink.symm, rfl, rfl, newItems_eq rfl⟩
  | timeout hlink =>
    exact ⟨⟨.connected, .tick, .reconnecting, some .abort, .heartbeatTimeout⟩, by decide,
      hlink.symm, rfl, rfl, newItems_eq rfl⟩
  | retry hlink =>
    exact ⟨⟨.reconnecting, .tick, .connecting, some .connect, .retry⟩, by decide,
      hlink.symm, rfl, rfl, newItems_eq rfl⟩
  | _ => exact absurd rfl hne

/-- The effects that keep the link state append no item of a transition (R175). -/
theorem Effect.ofTransition_eq_false (heff : Effect s i t) (heq : t.linkState = s.linkState)
    {o : OutItem} (ho : o ∈ newItems s t) : o.ofTransition = false := by
  cases heff with
  | connect hlink | giveUp hlink | up hlink | timeout hlink | retry hlink =>
    rw [hlink] at heq
    cases heq
  | close hlink =>
    rcases hlink with hlink | hlink <;> rw [hlink] at heq <;> cases heq
  | down _ hlink =>
    rcases hlink with ⟨hlink, _⟩ | ⟨hlink, _⟩ <;> rw [hlink] at heq <;> cases heq
  | unchanged | phase | wait => simp [newItems] at ho
  | probe | raise | send | echo | command =>
    simp only [newItems, List.drop_left, List.mem_singleton] at ho
    rw [ho]
    rfl
  | chunk _ _ _ _ _ hloop =>
    obtain ⟨fs, hnew⟩ := newItems_of_reassemble hloop
    exact ofTransition_of_mem_framesItems o (hnew ▸ ho)

end

/-- Settles O45: the effect of the instruction is a row, or it keeps the link state and has none of a
transition's items. -/
theorem linkStateChangesOnlyByTheTransitionTable :
    Obligations.LinkStateChangesOnlyByTheTransitionTable := by
  intro i s t h
  have heff := exec_effect h
  refine ⟨heff.exists_row, fun heq => ⟨fun _ hmem => ?tpc, fun _ _ _ hmem => ?status⟩⟩
  case tpc | status => cases heff.ofTransition_eq_false heq hmem

/-! ### Runs and their items -/

/-- A run that completes is its first event and then the others. -/
theorem runEvents_cons_next {i : Instr} {is : List Instr} {s t : State}
    (h : runEvents (i :: is) s = .next t) : ∃ u, exec i s = .next u ∧ runEvents is u = .next t := by
  rw [runEvents] at h
  split at h
  · exact ⟨_, ‹_›, h⟩
  · cases h
  · cases h

/-- OUT only grows along a run (R11). -/
theorem runEvents_out_grows {is : List Instr} {s t : State} (h : runEvents is s = .next t) :
    ∃ items, t.out = s.out ++ items := by
  induction is generalizing s with
  | nil =>
    cases h
    exact ⟨[], (List.append_nil _).symm⟩
  | cons i is ih =>
    obtain ⟨u, hexec, hrun⟩ := runEvents_cons_next h
    obtain ⟨first, hu⟩ := (exec_effect hexec).out_grows
    obtain ⟨others, ht⟩ := ih hrun
    exact ⟨first ++ others, by rw [ht, hu, List.append_assoc]⟩

/-- A run's items are its first event's and then the others'. -/
theorem newItems_cons {i : Instr} {is : List Instr} {s u t : State} (hexec : exec i s = .next u)
    (hrun : runEvents is u = .next t) : newItems s t = newItems s u ++ newItems u t := by
  obtain ⟨first, hu⟩ := (exec_effect hexec).out_grows
  obtain ⟨others, ht⟩ := runEvents_out_grows hrun
  rw [newItems_eq hu, newItems_eq ht]
  exact newItems_eq (by rw [ht, hu, List.append_assoc])

/-! ### After a user disconnect (R168) -/

/-- DISCONNECT_REQ leaves DISCONNECTED, whatever the link state was (R161). -/
theorem exec_disconnectReq_linkState {s u : State} (h : exec .disconnectReq s = .next u) :
    u.linkState = .disconnected := by
  cases hlink : s.linkState with
  | disconnected =>
    rw [exec_disconnectReq_of_disconnected hlink] at h
    cases h
    exact hlink
  | connecting =>
    rw [exec_disconnectReq_of_open (.inr hlink)] at h
    cases h
    rfl
  | connected =>
    rw [exec_disconnectReq_of_open (.inl hlink)] at h
    cases h
    rfl
  | reconnecting =>
    rw [exec_disconnectReq_of_reconnecting hlink] at h
    cases h
    rfl

/-- The only way out of DISCONNECTED is CONNECT_REQ (R167). -/
theorem Effect.stays_disconnected {i : Instr} {s t : State} (heff : Effect s i t)
    (hreq : i ≠ .connectReq) (hlink : s.linkState = .disconnected) :
    t.linkState = .disconnected := by
  by_contra hne
  obtain ⟨r, hr, hsource, hevent, -⟩ := heff.exists_row (by rwa [hlink])
  have hrow : ∀ r ∈ transitionTable, r.source = .disconnected → r.event = .connectReq := by decide
  exact hreq (hevent ▸ hrow r hr (hsource.trans hlink))

/-- Without CONNECT_REQ a run from DISCONNECTED stays there and shows no transition. -/
theorem runEvents_stays_disconnected {is : List Instr} {s t : State} (hreq : .connectReq ∉ is)
    (hlink : s.linkState = .disconnected) (h : runEvents is s = .next t) :
    t.linkState = .disconnected ∧ ∀ o ∈ newItems s t, o.ofTransition = false := by
  induction is generalizing s with
  | nil =>
    cases h
    exact ⟨hlink, by simp⟩
  | cons i is ih =>
    obtain ⟨u, hexec, hrun⟩ := runEvents_cons_next h
    obtain ⟨hfirst, hothers⟩ := List.ne_and_not_mem_of_not_mem_cons hreq
    have heff := exec_effect hexec
    have hu := heff.stays_disconnected (Ne.symm hfirst) hlink
    obtain ⟨ht, hitems⟩ := ih hothers hu hrun
    refine ⟨ht, fun o ho => ?_⟩
    rw [newItems_cons hexec hrun, List.mem_append] at ho
    exact ho.elim (heff.ofTransition_eq_false (hu.trans hlink.symm)) (hitems o)

/-- Settles O46: DISCONNECT_REQ leaves DISCONNECTED, and the run stays there. -/
theorem userDisconnectSuppressesReconnect : Obligations.UserDisconnectSuppressesReconnect := by
  intro is s u t hdis hreq hrun
  obtain ⟨ht, hitems⟩ := runEvents_stays_disconnected hreq (exec_disconnectReq_linkState hdis) hrun
  exact ⟨ht, fun _ hmem => nomatch hitems _ hmem⟩

end Sys2Proof.Machine
end

section
/-! PROOFS. The timeout timing law (43_supervisor.md R173): in CONNECTED the phase and the misses
together count the ticks since the last liveness evidence. -/

namespace Sys2Proof.Machine

/-! ### Without a Heartbeat the misses stay (R142, R147) -/

/-- No Heartbeat is among the frames that the items show on the FRAME tap. -/
def NoHeartbeat (c : Config) (items : List OutItem) : Prop :=
  ∀ f ∈ tapFrames items, classifyFrame c f.1 f.2 ≠ .heartbeat

theorem noHeartbeat_append {c : Config} {as bs : List OutItem} :
    NoHeartbeat c (as ++ bs) ↔ NoHeartbeat c as ∧ NoHeartbeat c bs := by
  simp [NoHeartbeat, or_imp, forall_and]

/-- From `s` to `t` OUT grows, and if that shows no Heartbeat, `miss_cnt` stays. -/
def ClearsMissesByHeartbeatOnly (s t : State) : Prop :=
  t.cfg = s.cfg ∧ ∃ items, t.out = s.out ++ items ∧ (NoHeartbeat s.cfg items → t.missCnt = s.missCnt)

theorem ClearsMissesByHeartbeatOnly.trans {a b c : State} (hab : ClearsMissesByHeartbeatOnly a b)
    (hbc : ClearsMissesByHeartbeatOnly b c) : ClearsMissesByHeartbeatOnly a c := by
  obtain ⟨hcfgb, as, hb, hmissb⟩ := hab
  obtain ⟨hcfgc, bs, hc, hmissc⟩ := hbc
  rw [hcfgb] at hmissc
  refine ⟨hcfgc.trans hcfgb, as ++ bs, by rw [hc, hb, List.append_assoc], fun hno => ?_⟩
  obtain ⟨has, hbs⟩ := noHeartbeat_append.1 hno
  exact (hmissc hbs).trans (hmissb has)

/-- A yielded frame is shown on the tap and clears `miss_cnt` only as a Heartbeat (R125, R142). -/
theorem yieldFrame_clearsMissesByHeartbeatOnly (k : Byte) (p : List Byte) (n : Nat) (s : State) :
    ClearsMissesByHeartbeatOnly s (yieldFrame k p n s) := by
  rw [yieldFrame_eq]
  exact ⟨rfl, frameItems s.cfg k p, rfl,
    fun hno => if_neg (hno (k, p) (by simp [frameItems, tapFrames]))⟩

/-- So does the loop. -/
theorem reassembleFor_clearsMissesByHeartbeatOnly {n : Nat} {s t : State}
    (h : reassembleFor n s = .ok t) : ClearsMissesByHeartbeatOnly s t :=
  reassembleFor_induct (R := ClearsMissesByHeartbeatOnly)
    (fun _ => ⟨rfl, [], (List.append_nil _).symm, fun _ => rfl⟩)
    ClearsMissesByHeartbeatOnly.trans
    (fun _ _ => ⟨rfl, [], (List.append_nil _).symm, fun _ => rfl⟩)
    (fun s k p n _ => yieldFrame_clearsMissesByHeartbeatOnly k p n s) n s t h

/-- In CONNECTED an event other than TICK, TP_DOWN and DISCONNECT_REQ that brings no Heartbeat keeps the
session, its phase and its misses. -/
theorem Effect.keeps_session {i : Instr} {s t : State} (heff : Effect s i t)
    (hlink : s.linkState = .connected) (hev : i.isEvent = true) (htick : i ≠ .tick)
    (hdown : i ≠ .tpDown) (hdis : i ≠ .disconnectReq) (hno : NoHeartbeat s.cfg (newItems s t)) :
    t.linkState = .connected ∧ t.hbDiv = s.hbDiv ∧ t.missCnt = s.missCnt := by
  cases heff with
  | unchanged | raise | send | command => exact ⟨hlink, rfl, rfl⟩
  | connect hother | up hother =>
    rw [hlink] at hother
    cases hother
  | close | giveUp => exact absurd rfl hdis
  | down => exact absurd rfl hdown
  | phase | probe | timeout | wait | retry => exact absurd rfl htick
  | echo => cases hev
  | chunk d _ _ _ _ hloop =>
    have hrecv : (receive d s).out = s.out ∧ (receive d s).missCnt = s.missCnt := by
      rcases receive_cases d s with ⟨_, hr⟩ | ⟨_, hr⟩ <;> simp [hr]
    obtain ⟨-, items, hout, hmiss⟩ := reassembleFor_clearsMissesByHeartbeatOnly hloop
    rw [hrecv.1] at hout
    rw [newItems_eq hout] at hno
    rw [receive_cfg, hrecv.2] at hmiss
    exact ⟨hlink, rfl, hmiss hno⟩

/-! ### The count of ticks (R170, R171) -/

/-- In CONNECTED, `n` ticks have passed since phase 0 with no miss: whole periods in `miss_cnt`, the
rest in the phase. -/
structure State.CountsTicks (s : State) (n : Nat) : Prop where
  linkState : s.linkState = .connected
  hbDiv_lt : s.hbDiv < s.cfg.hbPeriod
  count : s.hbDiv + s.cfg.hbPeriod * s.missCnt = n

namespace State.CountsTicks

variable {s t : State} {n : Nat} {i : Instr}

/-- The heartbeat ticks are the multiples of the period. -/
theorem mod_eq_zero_iff (h : s.CountsTicks n) :
    (n + 1) % s.cfg.hbPeriod = 0 ↔ s.hbDiv + 1 = s.cfg.hbPeriod := by
  have hlt := h.hbDiv_lt
  rw [← h.count, Nat.add_right_comm, Nat.add_mul_mod_self_left]
  constructor
  · intro hmod
    by_contra hne
    rw [Nat.mod_eq_of_lt (by omega)] at hmod
    omega
  · intro heq
    rw [heq, Nat.mod_self]

/-- On a heartbeat tick the count is the period times the new `miss_cnt`. -/
theorem succ_eq_mul (h : s.CountsTicks n) (hphase : s.hbDiv + 1 = s.cfg.hbPeriod) :
    n + 1 = s.cfg.hbPeriod * (s.missCnt + 1) := by
  have hcount := h.count
  rw [Nat.mul_succ]
  omega

/-- A TICK before the period times the limit's successor is counted, and sends a Heartbeat exactly at the
multiples of the period. -/
theorem tick (h : s.CountsTicks n) (hlt : n + 1 < s.cfg.hbPeriod * (s.cfg.hbMissLimit + 1)) :
    ∃ u, exec .tick s = .next u ∧ u.CountsTicks (n + 1) ∧
      u.out = s.out ++ (if (n + 1) % s.cfg.hbPeriod = 0 then
        [.tx [s.cfg.sof, s.cfg.kindHeartbeat, 0x00, s.cfg.eof]] else []) := by
  have hdiv := h.hbDiv_lt
  by_cases hphase : s.hbDiv + 1 = s.cfg.hbPeriod
  · have hcount := h.succ_eq_mul hphase
    have hmiss : s.missCnt + 1 ≤ s.cfg.hbMissLimit :=
      Nat.lt_succ_iff.1 (Nat.lt_of_mul_lt_mul_left (hcount ▸ hlt))
    refine ⟨_, exec_tick_probe h.linkState hphase hmiss, ⟨h.linkState, by dsimp only; omega, ?_⟩, ?_⟩
    · simpa using hcount.symm
    · rw [if_pos (h.mod_eq_zero_iff.2 hphase)]
  · have hcount := h.count
    refine ⟨_, exec_tick_phase h.linkState hphase, ⟨h.linkState, by dsimp only; omega, ?_⟩, ?_⟩
    · dsimp only
      omega
    · rw [if_neg (mt h.mod_eq_zero_iff.1 hphase), List.append_nil]

/-- The TICK at the period times the limit's successor takes the timeout transition. -/
theorem timeout (h : s.CountsTicks n) (heq : n + 1 = s.cfg.hbPeriod * (s.cfg.hbMissLimit + 1)) :
    ∃ u, exec .tick s = .next u ∧ u.linkState = .reconnecting ∧
      u.out = s.out ++ [.tpc .abort, .status false .reconnecting .heartbeatTimeout] := by
  have hphase : s.hbDiv + 1 = s.cfg.hbPeriod :=
    h.mod_eq_zero_iff.1 (by rw [heq, Nat.mul_mod_right])
  have hmiss : s.missCnt + 1 = s.cfg.hbMissLimit + 1 :=
    Nat.eq_of_mul_eq_mul_left (Nat.zero_lt_of_lt h.hbDiv_lt) ((h.succ_eq_mul hphase).symm.trans heq)
  exact ⟨_, exec_tick_timeout h.linkState hphase (by omega), rfl, rfl⟩

/-- Another event of a session without a Heartbeat keeps the count. -/
theorem keep (h : s.CountsTicks n) (heff : Effect s i t) (hev : i.isEvent = true)
    (htick : i ≠ .tick) (hdown : i ≠ .tpDown) (hdis : i ≠ .disconnectReq)
    (hno : NoHeartbeat s.cfg (newItems s t)) : t.CountsTicks n := by
  obtain ⟨hlink, hdiv, hmiss⟩ := heff.keeps_session h.linkState hev htick hdown hdis hno
  exact ⟨hlink, by rw [hdiv, heff.cfg_eq]; exact h.hbDiv_lt,
    by rw [hdiv, hmiss, heff.cfg_eq]; exact h.count⟩

/-- A run of a session without a Heartbeat counts its ticks, as long as they are too few for the
timeout. -/
theorem run {is : List Instr} (h : s.CountsTicks n) (hev : ∀ i ∈ is, i.isEvent = true)
    (hdown : .tpDown ∉ is) (hdis : .disconnectReq ∉ is) (hrun : runEvents is s = .next t)
    (hno : NoHeartbeat s.cfg (newItems s t))
    (hlt : n + tickCount is < s.cfg.hbPeriod * (s.cfg.hbMissLimit + 1)) :
    t.cfg = s.cfg ∧ t.CountsTicks (n + tickCount is) := by
  induction is generalizing s n with
  | nil =>
    cases hrun
    exact ⟨rfl, h⟩
  | cons i is ih =>
    obtain ⟨u, hexec, hrest⟩ := runEvents_cons_next hrun
    have heff := exec_effect hexec
    rw [newItems_cons hexec hrest, noHeartbeat_append] at hno
    obtain ⟨hnoFirst, hnoRest⟩ := hno
    obtain ⟨hevFirst, hevRest⟩ := List.forall_mem_cons.1 hev
    obtain ⟨hdownFirst, hdownRest⟩ := List.ne_and_not_mem_of_not_mem_cons hdown
    obtain ⟨hdisFirst, hdisRest⟩ := List.ne_and_not_mem_of_not_mem_cons hdis
    have hu : u.CountsTicks (n + if i = .tick then 1 else 0) := by
      split
      next htick =>
        subst htick
        rw [tickCount, if_pos rfl] at hlt
        obtain ⟨u', hexec', hu', -⟩ := h.tick (by omega)
        cases hexec.symm.trans hexec'
        exact hu'
      next htick =>
        exact h.keep heff hevFirst htick (Ne.symm hdownFirst) (Ne.symm hdisFirst) hnoFirst
    rw [tickCount, ← Nat.add_assoc] at hlt ⊢
    rw [← heff.cfg_eq] at hnoRest hlt ⊢
    exact ih hu hevRest hdownRest hdisRest hrest hnoRest hlt

end State.CountsTicks

/-- Settles O47: the run counts its ticks from `h0` on, and the timeout comes where the count is the
period times the limit's successor. -/
theorem heartbeatTimeoutComesAtItsTick : Obligations.HeartbeatTimeoutComesAtItsTick := by
  intro is s t hlink hmiss hphase hev hdown hdis hrun hno hlt
  have hlaw : s.hbDiv + ((s.cfg.hbPeriod - s.hbDiv) + s.cfg.hbPeriod * s.cfg.hbMissLimit) =
      s.cfg.hbPeriod * (s.cfg.hbMissLimit + 1) := by
    rw [Nat.mul_succ]
    omega
  have hstart : s.CountsTicks s.hbDiv := ⟨hlink, hphase, by rw [hmiss, Nat.mul_zero, Nat.add_zero]⟩
  obtain ⟨hcfg, ht⟩ := hstart.run hev hdown hdis hrun hno (by omega)
  refine ⟨ht.linkState, ?_⟩
  rw [← hcfg] at hlaw hlt ⊢
  rcases Nat.lt_or_eq_of_le (Nat.succ_le_of_lt hlt) with hbefore | hat
  · obtain ⟨u, hexec, hu, hout⟩ := ht.tick (by omega)
    exact ⟨u, hexec, fun heq => by omega, fun _ => ⟨hu.linkState, hout⟩⟩
  · obtain ⟨u, hexec, hu, hout⟩ := ht.timeout (by omega)
    exact ⟨u, hexec, fun _ => ⟨hu, hout⟩, fun hlt' => by omega⟩

end Sys2Proof.Machine
end

section
/-! PROOFS. What the model does with a fault (60_exceptions.md): which event reports one (R202), and that none
stops the block (R201, R210). -/

namespace Sys2Proof.Machine

/-! ### The reported fault (R202) -/

section
variable {i : Instr} {s t : State}

/-- A frame's dispatch reports no fault (R147). -/
theorem err_not_mem_dispatchItems {c : Config} {k : Byte} {p : List Byte} {e : ErrCode} :
    .err e ∉ dispatchItems c k p := by
  unfold dispatchItems
  split <;> simp

/-- Nor does the loop. -/
theorem err_not_mem_framesItems {c : Config} {fs : List (Byte × List Byte)} {e : ErrCode} :
    .err e ∉ framesItems c fs := by
  induction fs with
  | nil => nofun
  | cons f fs ih => simp [framesItems, frameItems, err_not_mem_dispatchItems, ih]

/-- An ERR item comes from a TX event whose payload is too large, and the sticky bit with it (R101,
R202). -/
theorem Effect.raised_of_err_mem (heff : Effect s i t) {e : ErrCode} (he : .err e ∈ newItems s t) :
    t.faultPtl = true ∧ ∃ kind payload, txPart s.cfg i = some (kind, payload) ∧
      s.cfg.maxPayload < payload.length := by
  cases heff with
  | raise _ kind payload htx hlen => exact ⟨rfl, kind, payload, htx, hlen⟩
  | chunk _ _ _ _ _ hloop =>
    obtain ⟨fs, hnew⟩ := newItems_of_reassemble hloop
    exact absurd (hnew ▸ he) err_not_mem_framesItems
  | _ => simp [newItems] at he

/-- Without an ERR item the sticky bit stays as it was (R27, R202). -/
theorem Effect.faultPtl_eq_of_err_not_mem (heff : Effect s i t)
    (he : .err .payloadTooLarge ∉ newItems s t) : t.faultPtl = s.faultPtl := by
  cases heff with
  | raise => simp [newItems] at he
  | _ => rfl

/-- A typed TX event has at most six payload bytes, so a longer part is TX_RAW's (R107 to R110). -/
theorem eq_txRaw_of_six_lt_length {c : Config} {kind : Byte} {payload : List Byte}
    (htx : txPart c i = some (kind, payload)) (hlen : 6 < payload.length) :
    i = .txRaw kind payload := by
  cases i with
  | txRaw => cases htx; rfl
  | txMove | txControl | txTarget => cases htx; simp [wrI16] at hlen
  | _ => cases htx

end

/-- Settles O23: the ERR item is that of the one effect that raises, whose payload is too long for a typed
TX event; every other effect leaves the sticky bit. -/
theorem onlyOversizedTxRawReportsAFault : Obligations.OnlyOversizedTxRawReportsAFault := by
  intro i s t hmax h
  have heff := exec_effect h
  refine ⟨fun e he => ?_, fun ht => ?_, ?_⟩
  · obtain ⟨-, kind, payload, htx, hlen⟩ := heff.raised_of_err_mem he
    exact ⟨kind, payload, eq_txRaw_of_six_lt_length htx (by omega), hlen⟩
  · by_cases he : .err .payloadTooLarge ∈ newItems s t
    · exact .inr he
    · exact .inl (heff.faultPtl_eq_of_err_not_mem he ▸ ht)
  · rintro (hs | he)
    · exact heff.faultPtl_sticky hs
    · exact (heff.raised_of_err_mem he).1

/-! ### No fault stops the block (R201, R210, R216) -/

section
variable {i : Instr} {s : State}

/-- In every link state each of the supervisor's events, each TX event and each frame class answers a next
state. -/
theorem exec_completes_of_not_rxChunk (hreserved : ∀ op, i ≠ .reservedEv op)
    (hchunk : ∀ d, i ≠ .rxChunk d) : ∃ t, exec i s = .next t := by
  cases i with
  | connectReq => simp only [exec, execConnectReq]; split <;> exact ⟨_, rfl⟩
  | disconnectReq => simp only [exec, execDisconnectReq]; split <;> exact ⟨_, rfl⟩
  | tpUp => simp only [exec, execTpUp]; split <;> exact ⟨_, rfl⟩
  | tpDown => simp only [exec, execTpDown]; split <;> exact ⟨_, rfl⟩
  | tick => simp only [exec, execTick]; split <;> exact ⟨_, rfl⟩
  | rxChunk d => exact absurd rfl (hchunk d)
  | reservedEv op => exact absurd rfl (hreserved op)
  | _ => exact ⟨_, rfl⟩

/-- Every instruction but a reserved opcode completes in every state; RX_CHUNK, since no read of the loop is
out of range (R50, R201; log entry 19). -/
theorem exec_completes (hm : 3 ≤ s.cfg.minFrame) (hreserved : ∀ op, i ≠ .reservedEv op) :
    ∃ t, exec i s = .next t := by
  by_cases hchunk : ∃ d, i = .rxChunk d
  · obtain ⟨d, rfl⟩ := hchunk
    obtain ⟨-, h⟩ | ⟨-, t, -, h⟩ := execRxChunk_cases d s hm
    · exact ⟨s, h⟩
    · exact ⟨t, h⟩
  · exact exec_completes_of_not_rxChunk hreserved (not_exists.1 hchunk)

theorem exec_not_fault (hm : 3 ≤ s.cfg.minFrame) (f : Fault) : exec i s ≠ .fault f := by
  intro h
  by_cases hreserved : ∃ op, i = .reservedEv op
  · obtain ⟨op, rfl⟩ := hreserved
    cases h
  · obtain ⟨t, ht⟩ := exec_completes hm (not_exists.1 hreserved)
    cases ht.symm.trans h

/-- RX_CHUNK is never refused by its execution, whatever the configuration (R120). -/
theorem exec_rxChunk_not_refused (d : List Byte) (r : Refusal) : exec (.rxChunk d) s ≠ .refused r := by
  simp only [exec, execRxChunk]
  split
  · nofun
  · split <;> nofun

/-- Only a reserved opcode is refused by its execution (R87). -/
theorem eq_reservedOpcode_of_exec_refused {r : Refusal} (h : exec i s = .refused r) :
    ∃ op, r = .reservedOpcode op := by
  by_cases hreserved : ∃ op, i = .reservedEv op
  · obtain ⟨op, rfl⟩ := hreserved
    cases h
    exact ⟨op, rfl⟩
  · obtain ⟨t, ht⟩ := exec_completes_of_not_rxChunk (s := s) (not_exists.1 hreserved)
      fun d hd => exec_rxChunk_not_refused d r (hd ▸ h)
    cases ht.symm.trans h

/-- The fetch refuses an RX_CHUNK too long and an event word cut short, nothing else (R87). -/
theorem fetch_malformed {r : Refusal} (h : fetch s = .malformed r) :
    (∃ n, r = .chunkTooLong n) ∨ r = .eventWordCutShort := by
  unfold fetch at h
  split at h
  · cases h
  · cases h
  · cases h
    exact .inl ⟨_, rfl⟩
  · cases h
    exact .inr rfl

theorem step_not_fault (hm : 3 ≤ s.cfg.minFrame) (f : Fault) : step s ≠ .fault f := by
  unfold step
  split
  · nofun
  · nofun
  next i rest _ => exact exec_not_fault (s := { s with port := rest }) hm f

/-- A step refuses by its fetch or by the execution of a reserved opcode (R87). -/
theorem step_refused_cases {r : Refusal} (h : step s = .refused r) :
    (∃ op, r = .reservedOpcode op) ∨ (∃ n, r = .chunkTooLong n) ∨ r = .eventWordCutShort := by
  unfold step at h
  split at h
  · cases h
  · cases h
    exact .inr (fetch_malformed ‹_›)
  · exact .inl (eq_reservedOpcode_of_exec_refused h)

end

/-- Settles O52: its three clauses are the lemmas about `exec` and `step`. -/
theorem noFaultStopsTheBlock : Obligations.NoFaultStopsTheBlock :=
  ⟨fun _ _ => exec_completes, fun _ f hm => step_not_fault hm f, fun _ _ => step_refused_cases⟩

end Sys2Proof.Machine
end

section
/-! PROOFS. The faults that an event detects (60_exceptions.md R200, R209): which class each instruction can
detect, and how each detected class shows in the machine. -/

namespace Sys2Proof.Machine

/-! ### The faults of the loop (R123, R124, R126) -/

section
variable {s : State} {f : FaultClass}

/-- The loop detects framing and semantic faults only (R200). -/
theorem framing_or_semantic_of_mem_loopFaults {n : Nat} (h : f ∈ loopFaults n s) :
    f = .framing ∨ f = .semantic := by
  induction n generalizing s with
  | zero => cases h
  | succ n ih =>
    simp only [loopFaults] at h
    split at h
    · cases h
    · split at h
      · cases h
      · exact .inl (List.mem_singleton.1 h)
    · exact (List.mem_cons.1 h).elim .inl ih
    · split at h
      · exact (List.mem_cons.1 h).elim .inr ih
      · exact ih h

/-- What the faults of the loop say about the scan that the loop is: the semantic ones are the frames that
dispatch drops; the framing ones are the bytes that neither stay nor leave in a frame, and one more where a
truncated frame waits (log entry 18). -/
structure AccountsFor (c : Config) (buf : List Byte) (r : List (Byte × List Byte) × List Byte)
    (faults : List FaultClass) : Prop where
  semantic : faults.count .semantic = r.1.countP fun f => isSemanticFault c f.1 f.2
  framing : buf.length + (if c.minFrame ≤ r.2.length then 1 else 0) =
    faults.count .framing + (frameStream c r.1).length + r.2.length

namespace AccountsFor

variable {c : Config} {buf rest : List Byte} {r : List (Byte × List Byte) × List Byte}
  {faults : List FaultClass}

/-- A dropped byte is one framing fault (R123, R126). -/
theorem drop {b : Byte} (h : AccountsFor c rest r faults) :
    AccountsFor c (b :: rest) r (.framing :: faults) where
  semantic := by rw [List.count_cons_of_ne (by decide), h.semantic]
  framing := by
    have := h.framing
    rw [List.count_cons_self, List.length_cons]
    omega

/-- A yielded frame takes its bytes along, and is a semantic fault where dispatch drops it (R125, R204). -/
theorem yield {kind : Byte} {payload : List Byte} (h : AccountsFor c rest r faults) :
    AccountsFor c (frameBytes c kind payload ++ rest) ((kind, payload) :: r.1, r.2)
      (if isSemanticFault c kind payload then .semantic :: faults else faults) where
  semantic := by
    rw [List.countP_cons, ← h.semantic]
    split <;> simp
  framing := by
    have hcount : (if isSemanticFault c kind payload then .semantic :: faults else faults).count
        .framing = faults.count .framing := by
      split <;> simp
    have := h.framing
    rw [hcount, frameStream, List.length_append, List.length_append]
    dsimp only
    omega

end AccountsFor

/-- With as many passes as bytes the faults of the loop account for the whole scan. -/
theorem loopFaults_accountsFor {n : Nat} (hm : 3 ≤ s.cfg.minFrame) (hn : s.rxbuf.length ≤ n) :
    AccountsFor s.cfg s.rxbuf (scan s.cfg s.rxbuf) (loopFaults n s) := by
  induction n generalizing s with
  | zero =>
    have hnil : s.rxbuf = [] := List.length_eq_zero_iff.mp (Nat.le_zero.mp hn)
    have hshort : ¬ s.cfg.minFrame ≤ 0 := by omega
    rw [hnil, scan_of_parked hm (parked_nil hm)]
    exact ⟨rfl, by simp [hshort, loopFaults, frameStream]⟩
  | succ n ih =>
    rw [loopFaults]
    by_cases hshort : s.rxbuf.length < s.cfg.minFrame
    · rw [nextPass_short s hshort, scan_of_parked hm ((parked_iff hm).2 (.inl hshort))]
      exact ⟨by simp [hshort], by simp [hshort, frameStream]⟩
    · have hlong := Nat.not_lt.mp hshort
      rw [nextPass_eq_passOf hm hlong]
      cases hd : decodeFrame s.cfg s.rxbuf with
      | incomplete =>
        rw [scan_of_parked hm ((parked_iff hm).2 (.inr hd))]
        exact ⟨by simp [passOf, hshort], by simp [passOf, hshort, hlong, frameStream]; omega⟩
      | invalid =>
        obtain ⟨b, rest, hbuf⟩ := List.exists_cons_of_length_pos (by omega : 0 < s.rxbuf.length)
        have hrest : (s.bufDrop 1).rxbuf = rest := by simp [hbuf]
        have h := ih (s := s.bufDrop 1) hm (by rw [hrest]; simp [hbuf] at hn; omega)
        rw [hrest] at h
        rw [hbuf] at hd hlong ⊢
        rw [scan_of_invalid hlong hd]
        exact h.drop
      | frame kind payload =>
        obtain ⟨hlen, rest, hbuf⟩ := decodeFrame_eq_frame_iff.1 hd
        have hrest : (yieldFrame kind payload (payload.length + 4) s).rxbuf = rest := by
          rw [yieldFrame_rxbuf, hbuf, List.drop_left' (frameBytes_length _ _ _)]
        have h := ih (s := yieldFrame kind payload (payload.length + 4) s) (by simpa using hm)
          (by rw [hrest]; simp [hbuf] at hn; omega)
        rw [hrest, yieldFrame_cfg] at h
        rw [hbuf] at hlong ⊢
        rw [scan_frameBytes hlen hlong]
        exact h.yield

end

/-! ### The faults of an instruction (R200) -/

section
variable {i : Instr} {s : State}

/-- A TX event detects the fault of its part (R111). -/
theorem detectedFaults_of_txPart {kind : Byte} {payload : List Byte}
    (htx : txPart s.cfg i = some (kind, payload)) : detectedFaults i s = sendFaults payload s := by
  cases i with
  | txRaw | txMove | txControl | txTarget => cases htx; rfl
  | _ => cases htx

variable {d : List Byte}

theorem detectedFaults_rxChunk_of_not_connected (hlink : s.linkState ≠ .connected) :
    detectedFaults (.rxChunk d) s = [] := if_pos hlink

/-- Past `RX_CAP` the cleared buffer gives the loop nothing to detect (R121). -/
theorem detectedFaults_rxChunk_of_overflow (hlink : s.linkState = .connected)
    (hover : s.cfg.rxCap < s.rxbuf.length + d.length) :
    detectedFaults (.rxChunk d) s = [.capacity] := by
  obtain ⟨-, hrecv⟩ | ⟨hfit, -⟩ := receive_cases d s
  · simp [detectedFaults, hlink, hrecv, hover, loopFaults]
  · omega

/-- Up to `RX_CAP` the faults are those of the loop (R121). -/
theorem detectedFaults_rxChunk_of_fits (hlink : s.linkState = .connected)
    (hfit : s.rxbuf.length + d.length ≤ s.cfg.rxCap) :
    detectedFaults (.rxChunk d) s = loopFaults (s.rxbuf ++ d).length (s.bufAppend d) := by
  obtain ⟨hover, -⟩ | ⟨-, hrecv⟩ := receive_cases d s
  · omega
  · simp [detectedFaults, hlink, hrecv, Nat.not_lt.mpr hfit]

/-- The three things a chunk can meet (R120, R121). -/
theorem rxChunk_cases (d : List Byte) (s : State) : s.linkState ≠ .connected ∨
    (s.linkState = .connected ∧ s.cfg.rxCap < s.rxbuf.length + d.length) ∨
    (s.linkState = .connected ∧ s.rxbuf.length + d.length ≤ s.cfg.rxCap) := by
  by_cases hlink : s.linkState = .connected
  · rcases Nat.lt_or_ge s.cfg.rxCap (s.rxbuf.length + d.length) with hover | hfit
    · exact .inr (.inl ⟨hlink, hover⟩)
    · exact .inr (.inr ⟨hlink, hfit⟩)
  · exact .inl hlink

/-- Which instruction detects which class, and where (the column "detected by" of R200). -/
inductive Detects (s : State) : Instr → FaultClass → Prop where
  /-- The transport goes down (R164). -/
  | transport (hlink : s.linkState = .connected ∨ s.linkState = .connecting) :
      Detects s .tpDown .transport
  /-- The misses pass their limit (R171). -/
  | liveness (hlink : s.linkState = .connected) (hphase : s.hbDiv + 1 = s.cfg.hbPeriod)
      (hmiss : s.cfg.hbMissLimit < s.missCnt + 1) : Detects s .tick .liveness
  /-- A chunk passes `RX_CAP` (R121). -/
  | capacity (d : List Byte) (hlink : s.linkState = .connected)
      (hover : s.cfg.rxCap < s.rxbuf.length + d.length) : Detects s (.rxChunk d) .capacity
  /-- The loop drops a byte or waits on a truncated frame (R123, R124, R126). -/
  | framing (d : List Byte) (hlink : s.linkState = .connected)
      (hfit : s.rxbuf.length + d.length ≤ s.cfg.rxCap) : Detects s (.rxChunk d) .framing
  /-- The loop yields a frame that dispatch drops (R204). -/
  | semantic (d : List Byte) (hlink : s.linkState = .connected)
      (hfit : s.rxbuf.length + d.length ≤ s.cfg.rxCap) : Detects s (.rxChunk d) .semantic
  /-- A payload is too large (R111, R202). -/
  | programming (i : Instr) (kind : Byte) (payload : List Byte)
      (htx : txPart s.cfg i = some (kind, payload)) (hlen : s.cfg.maxPayload < payload.length) :
      Detects s i .programming
  /-- A frame of an unassigned kind is dropped (R146). -/
  | unassigned (kind : Byte) (payload : List Byte) : Detects s (.unassignedKind kind payload) .semantic
  /-- A frame of a known kind and another length is dropped (R141). -/
  | malformed (kind : Byte) (payload : List Byte) : Detects s (.malformedKnownKind kind payload) .semantic

variable {f : FaultClass}

/-- What a chunk detects. -/
theorem detects_of_mem_rxChunk (h : f ∈ detectedFaults (.rxChunk d) s) : Detects s (.rxChunk d) f := by
  rcases rxChunk_cases d s with hlink | ⟨hlink, hover⟩ | ⟨hlink, hfit⟩
  · rw [detectedFaults_rxChunk_of_not_connected hlink] at h
    cases h
  · rw [detectedFaults_rxChunk_of_overflow hlink hover, List.mem_singleton] at h
    exact h ▸ .capacity d hlink hover
  · rw [detectedFaults_rxChunk_of_fits hlink hfit] at h
    rcases framing_or_semantic_of_mem_loopFaults h with rfl | rfl
    · exact .framing d hlink hfit
    · exact .semantic d hlink hfit

/-- What a TX event detects. -/
theorem detects_of_mem_txPart {kind : Byte} {payload : List Byte}
    (htx : txPart s.cfg i = some (kind, payload)) (h : f ∈ detectedFaults i s) : Detects s i f := by
  rw [detectedFaults_of_txPart htx, sendFaults] at h
  split at h
  · exact List.mem_singleton.1 h ▸ .programming i kind payload htx ‹_›
  · cases h

/-- Whatever an instruction detects is in that column. -/
theorem detects_of_mem (h : f ∈ detectedFaults i s) : Detects s i f := by
  cases i with
  | tpDown =>
    simp only [detectedFaults] at h
    split at h
    · exact List.mem_singleton.1 h ▸ .transport (.inl ‹_›)
    · exact List.mem_singleton.1 h ▸ .transport (.inr ‹_›)
    all_goals cases h
  | tick =>
    simp only [detectedFaults] at h
    split at h
    · rename_i hcond
      obtain ⟨hlink, hphase, hmiss⟩ := hcond
      exact List.mem_singleton.1 h ▸ .liveness hlink hphase hmiss
    · cases h
  | rxChunk d => exact detects_of_mem_rxChunk h
  | txRaw | txMove | txControl | txTarget => exact detects_of_mem_txPart rfl h
  | unassignedKind kind payload => exact List.mem_singleton.1 h ▸ .unassigned kind payload
  | malformedKnownKind kind payload => exact List.mem_singleton.1 h ▸ .malformed kind payload
  | _ => cases h

/-- A reserved opcode detects nothing: it is refused (R87). -/
theorem ne_reservedEv_of_detectedFaults_ne_nil (h : detectedFaults i s ≠ []) (op : Byte) :
    i ≠ .reservedEv op := by
  rintro rfl
  exact h rfl

/-- Only the loop detects more than one fault at a time (R209). -/
theorem detectedFaults_length_le_one (hchunk : ∀ d, i ≠ .rxChunk d) :
    (detectedFaults i s).length ≤ 1 := by
  cases i with
  | rxChunk d => exact absurd rfl (hchunk d)
  | tpDown => simp only [detectedFaults]; split <;> simp
  | tick => simp only [detectedFaults]; split <;> simp
  | txRaw | txMove | txControl | txTarget => simp only [detectedFaults, sendFaults]; split <;> simp
  | _ => simp [detectedFaults]

/-- A class that the loop does not detect is detected at most once (R209). -/
theorem count_detectedFaults_le_one (hframing : f ≠ .framing) (hsemantic : f ≠ .semantic) :
    (detectedFaults i s).count f ≤ 1 := by
  by_cases hchunk : ∃ d, i = .rxChunk d
  · obtain ⟨d, rfl⟩ := hchunk
    rcases rxChunk_cases d s with hlink | ⟨hlink, hover⟩ | ⟨hlink, hfit⟩
    · simp [detectedFaults_rxChunk_of_not_connected hlink]
    · rw [detectedFaults_rxChunk_of_overflow hlink hover]
      exact List.count_le_length
    · rw [detectedFaults_rxChunk_of_fits hlink hfit, List.count_eq_zero_of_not_mem]
      · exact Nat.zero_le 1
      · exact fun h => (framing_or_semantic_of_mem_loopFaults h).elim hframing hsemantic
  · exact List.count_le_length.trans (detectedFaults_length_le_one (not_exists.1 hchunk))

/-! ### How each class shows (R200) -/

variable {t : State}

/-- A programming error sets the sticky bit and appends the ERR item (R202). -/
theorem raised_of_programming (h : exec i s = .next t) (hf : .programming ∈ detectedFaults i s) :
    t.faultPtl = true ∧ .err .payloadTooLarge ∈ newItems s t := by
  cases detects_of_mem hf with
  | programming _ kind payload htx hlen =>
    rw [exec_raises_of_txPart htx hlen] at h
    cases h
    exact ⟨rfl, by simp [newItems]⟩

/-- The ERR item shows a programming error, and no other fault (R202). -/
theorem programming_mem_iff (h : exec i s = .next t) :
    .programming ∈ detectedFaults i s ↔ .err .payloadTooLarge ∈ newItems s t := by
  refine ⟨fun hf => (raised_of_programming h hf).2, fun he => ?_⟩
  obtain ⟨-, kind, payload, htx, hlen⟩ := (exec_effect h).raised_of_err_mem he
  simp [detectedFaults_of_txPart htx, sendFaults, hlen]

/-- A capacity fault is the overflow of a chunk in CONNECTED (R121). -/
theorem capacity_mem_iff : .capacity ∈ detectedFaults i s ↔
    ∃ d, i = .rxChunk d ∧ s.linkState = .connected ∧ s.cfg.rxCap < s.rxbuf.length + d.length := by
  constructor
  · intro hf
    cases detects_of_mem hf with
    | capacity d hlink hover => exact ⟨d, rfl, hlink, hover⟩
  · rintro ⟨d, rfl, hlink, hover⟩
    simp [detectedFaults_rxChunk_of_overflow hlink hover]

/-- Its whole effect is the empty buffer (R121, R203). -/
theorem eq_of_capacity (h : exec i s = .next t) (hf : .capacity ∈ detectedFaults i s) :
    t = { s with rxbuf := [] } := by
  obtain ⟨d, rfl, hlink, hover⟩ := capacity_mem_iff.1 hf
  rw [exec_rxChunk_of_overflow hlink hover] at h
  exact (Host.Outcome.next.inj h).symm

/-- A STATUS item of RECONNECTING comes from TP_DOWN or from the tick that times out (R167). -/
theorem Effect.reconnecting_cases {r : Reason} (heff : Effect s i t)
    (h : .status false .reconnecting r ∈ newItems s t) :
    (i = .tpDown ∧ (s.linkState = .connected ∧ r = .transportLost ∨
      s.linkState = .connecting ∧ r = .connectFailed)) ∨
    (i = .tick ∧ r = .heartbeatTimeout ∧ s.linkState = .connected ∧
      s.hbDiv + 1 = s.cfg.hbPeriod ∧ s.cfg.hbMissLimit < s.missCnt + 1) := by
  cases heff with
  | down reason hlink =>
    obtain rfl : r = reason := by simpa [newItems] using h
    exact .inl ⟨rfl, hlink⟩
  | timeout hlink hphase hmiss =>
    obtain rfl : r = .heartbeatTimeout := by simpa [newItems] using h
    exact .inr ⟨rfl, rfl, hlink, hphase, hmiss⟩
  | chunk _ _ _ _ _ hloop =>
    obtain ⟨fs, hnew⟩ := newItems_of_reassemble hloop
    cases ofTransition_of_mem_framesItems _ (hnew ▸ h)
  | _ => simp [newItems] at h

/-- A transport fault shows as the STATUS item of a lost session or of a failed attempt (R164, R200). -/
theorem transport_mem_iff (h : exec i s = .next t) : .transport ∈ detectedFaults i s ↔
    .status false .reconnecting .transportLost ∈ newItems s t ∨
      .status false .reconnecting .connectFailed ∈ newItems s t := by
  constructor
  · intro hf
    cases detects_of_mem hf with
    | transport hlink =>
      rcases hlink with hlink | hlink
      · rw [exec_tpDown_of_connected hlink] at h
        cases h
        exact .inl (by simp [newItems])
      · rw [exec_tpDown_of_connecting hlink] at h
        cases h
        exact .inr (by simp [newItems])
  · rintro (hmem | hmem)
    all_goals
      obtain ⟨rfl, ⟨hlink, -⟩ | ⟨hlink, -⟩⟩ | ⟨-, hreason, -⟩ :=
        (exec_effect h).reconnecting_cases hmem
      · simp [detectedFaults, hlink]
      · simp [detectedFaults, hlink]
      · cases hreason

/-- A liveness fault shows as the STATUS item of the timeout (R171, R200). -/
theorem liveness_mem_iff (h : exec i s = .next t) : .liveness ∈ detectedFaults i s ↔
    .status false .reconnecting .heartbeatTimeout ∈ newItems s t := by
  constructor
  · intro hf
    cases detects_of_mem hf with
    | liveness hlink hphase hmiss =>
      rw [exec_tick_timeout hlink hphase hmiss] at h
      cases h
      simp [newItems]
  · intro hmem
    obtain ⟨-, ⟨-, hreason⟩ | ⟨-, hreason⟩⟩ | ⟨rfl, -, hcond⟩ :=
      (exec_effect h).reconnecting_cases hmem
    · cases hreason
    · cases hreason
    · simp [detectedFaults, hcond]

/-- A framing fault comes from a chunk that is appended in CONNECTED (R120, R121). -/
theorem rxChunk_of_framing (hf : .framing ∈ detectedFaults i s) :
    ∃ d, i = .rxChunk d ∧ s.linkState = .connected ∧ s.rxbuf.length + d.length ≤ s.cfg.rxCap := by
  cases detects_of_mem hf with
  | framing d hlink hfit => exact ⟨d, rfl, hlink, hfit⟩

/-- The faults of a chunk that is appended account for the frames on its tap and the bytes it leaves. -/
theorem rxChunk_accountsFor (hm : 3 ≤ s.cfg.minFrame) (hlink : s.linkState = .connected)
    (hfit : s.rxbuf.length + d.length ≤ s.cfg.rxCap) (h : exec (.rxChunk d) s = .next t) :
    AccountsFor s.cfg (s.rxbuf ++ d) (tapFrames (newItems s t), t.rxbuf)
      (detectedFaults (.rxChunk d) s) := by
  rw [exec_rxChunk_of_fits hlink hm hfit] at h
  cases h
  rw [tapFrames_newItems_afterScan, State.afterScan_rxbuf, detectedFaults_rxChunk_of_fits hlink hfit]
  exact loopFaults_accountsFor (s := s.bufAppend d) hm le_rfl

/-- Only RX_CHUNK shows frames on the tap (R33, R125). -/
theorem Effect.tapFrames_eq_nil (heff : Effect s i t) (hchunk : ∀ d, i ≠ .rxChunk d) :
    tapFrames (newItems s t) = [] := by
  cases heff with
  | chunk d => exact absurd rfl (hchunk d)
  | _ => simp [newItems, tapFrames]

/-- An event that is no RX_CHUNK detects no semantic fault (R204). -/
theorem count_semantic_eq_zero (hev : i.isEvent = true) (hchunk : ∀ d, i ≠ .rxChunk d) :
    (detectedFaults i s).count .semantic = 0 := by
  rw [List.count_eq_zero]
  intro hf
  cases detects_of_mem hf with
  | semantic d => exact hchunk d rfl
  | unassigned | malformed => cases hev

/-- A chunk's semantic faults are the frames on its tap that dispatch drops (R141, R146, R204). -/
theorem count_semantic_rxChunk (hm : 3 ≤ s.cfg.minFrame) (h : exec (.rxChunk d) s = .next t) :
    (detectedFaults (.rxChunk d) s).count .semantic =
      (tapFrames (newItems s t)).countP fun f => isSemanticFault s.cfg f.1 f.2 := by
  rcases rxChunk_cases d s with hlink | ⟨hlink, hover⟩ | ⟨hlink, hfit⟩
  · rw [exec_rxChunk_of_not_connected hlink] at h
    cases h
    simp [detectedFaults_rxChunk_of_not_connected hlink, tapFrames]
  · rw [exec_rxChunk_of_overflow hlink hover] at h
    cases h
    simp [detectedFaults_rxChunk_of_overflow hlink hover, newItems, tapFrames]
  · exact (rxChunk_accountsFor hm hlink hfit h).semantic

/-- An event's semantic faults are the frames on its tap that dispatch drops. -/
theorem count_semantic_eq (hm : 3 ≤ s.cfg.minFrame) (hev : i.isEvent = true)
    (h : exec i s = .next t) : (detectedFaults i s).count .semantic =
      (tapFrames (newItems s t)).countP fun f => isSemanticFault s.cfg f.1 f.2 := by
  by_cases hchunk : ∃ d, i = .rxChunk d
  · obtain ⟨d, rfl⟩ := hchunk
    exact count_semantic_rxChunk hm h
  · have hne := not_exists.1 hchunk
    rw [count_semantic_eq_zero hev hne, (exec_effect h).tapFrames_eq_nil hne, List.countP_nil]

end

/-- Settles O56: each clause is the lemma about its class; an event that detects a fault is no reserved
opcode, so it completes. -/
theorem oneEventDetectsAtMostOneOfEachSingleFault :
    Obligations.OneEventDetectsAtMostOneOfEachSingleFault := by
  intro i s hm
  refine ⟨count_detectedFaults_le_one (by decide) (by decide),
    count_detectedFaults_le_one (by decide) (by decide),
    fun hne => exec_completes hm (ne_reservedEv_of_detectedFaults_ne_nil hne), fun t h => ?_⟩
  refine ⟨programming_mem_iff h, fun hf => (raised_of_programming h hf).1, capacity_mem_iff,
    eq_of_capacity h, transport_mem_iff h, liveness_mem_iff h, fun hev => count_semantic_eq hm hev h,
    rxChunk_of_framing, ?_⟩
  rintro d rfl hlink hfit
  simpa using (rxChunk_accountsFor hm hlink hfit h).framing

end Sys2Proof.Machine
end

section
/-! PROOFS. Reset and hazards (70_reset_and_hazards.md): what has an effect in DISCONNECTED (R231), a buffer
that never overflows (R235), the last Heartbeat against the last tick (R240), and the environment's duties
(R243). -/

namespace Sys2Proof.Machine

/-! ### In DISCONNECTED (R231) -/

/-- An event other than CONNECT_REQ changes in DISCONNECTED nothing, or it is a TX event that raises
PayloadTooLarge: every other effect needs another link state, or is that of a received frame. -/
theorem Effect.of_disconnected {i : Instr} {s t : State} (heff : Effect s i t)
    (hlink : s.linkState = .disconnected) (hev : i.isEvent = true) (hreq : i ≠ .connectReq) :
    t = s ∨ (detectedFaults i s = [.programming] ∧
      t = { s with faultPtl := true, out := s.out ++ [.err .payloadTooLarge] }) := by
  cases heff with
  | unchanged => exact .inl rfl
  | raise _ kind payload htx hlen =>
    exact .inr ⟨(detectedFaults_of_txPart htx).trans (if_pos hlen), rfl⟩
  | connect => exact absurd rfl hreq
  | close hother => rcases hother with h | h <;> cases hlink.symm.trans h
  | down _ hother => rcases hother with ⟨h, -⟩ | ⟨h, -⟩ <;> cases hlink.symm.trans h
  | giveUp hother | up hother | phase hother | probe hother | timeout hother | wait hother
  | retry hother | chunk _ _ _ _ hother | send _ _ _ _ _ hother => cases hlink.symm.trans hother
  | echo => cases hev
  | command _ _ hframe => simp [Instr.isFrame, hev] at hframe

/-- Settles O3: it is what the effects of events allow in DISCONNECTED. -/
theorem onlyConnectReqHasAnEffectWhenDisconnected :
    Obligations.OnlyConnectReqHasAnEffectWhenDisconnected :=
  fun _ _ _ hlink hev hreq h => (exec_effect h).of_disconnected hlink hev hreq

/-! ### A large buffer (R235) -/

/-- A chunk that fits, and behind which no overflow clear fires, begins a sequence without one. -/
theorem noOverflow_cons_of_fits {d : List Byte} {cs : List (List Byte)} {s : State}
    (hfit : s.rxbuf.length + d.length ≤ s.cfg.rxCap)
    (hrest : ∀ t, exec (.rxChunk d) s = .next t → noOverflow cs t = true) :
    noOverflow (d :: cs) s = true := by
  rw [noOverflow, decide_eq_true hfit, Bool.true_and]
  split
  · exact hrest _ ‹_›
  · rfl
  · rfl

/-- Before each chunk the invariants leave at most 258 bytes in the buffer, so the chunk fits. -/
theorem State.Invariants.noOverflow {cs : List (List Byte)} {s : State} (h : s.Invariants)
    (hcap : 258 + s.cfg.chunkMax ≤ s.cfg.rxCap) (hlen : ∀ d ∈ cs, d.length ≤ s.cfg.chunkMax) :
    noOverflow cs s = true := by
  induction cs generalizing s with
  | nil => rfl
  | cons d cs ih =>
    obtain ⟨hd, hcs⟩ := List.forall_mem_cons.1 hlen
    have hbuf := h.rxbuf_length_le
    refine noOverflow_cons_of_fits (by omega) fun t hexec => ?_
    have heff := exec_effect hexec
    exact ih (h.of_effect heff) (by rwa [heff.cfg_eq]) (by rwa [heff.cfg_eq])

/-- Settles O38, by induction on the chunks: each keeps the invariants. -/
theorem largeBufferNeverOverflows : Obligations.LargeBufferNeverOverflows :=
  fun _ s hinv => ((State.inv_iff s).1 hinv).noOverflow

/-! ### A Heartbeat against the last tick (R240) -/

/-- A Heartbeat frame as one chunk is shown on the tap, clears the misses and is echoed (R125, R142). -/
theorem exec_rxChunk_heartbeat {s : State} (hlink : s.linkState = .connected) (hbuf : s.rxbuf = [])
    (hwf : s.cfg.wf = true) (htabled : s.cfg.framesTabled = true) (hcap : 4 ≤ s.cfg.rxCap) :
    exec (.rxChunk [s.cfg.sof, 0x00, 0x00, s.cfg.eof]) s = .next { s with
      missCnt := 0
      out := s.out ++ [.frame s.cfg.kindHeartbeat [],
        .tx [s.cfg.sof, s.cfg.kindHeartbeat, 0x00, s.cfg.eof]] } := by
  obtain ⟨hkind, -, -, -, hzero, -⟩ := (framesTabled_iff s.cfg).1 htabled
  have hword : [s.cfg.sof, 0x00, 0x00, s.cfg.eof] = frameBytes s.cfg s.cfg.kindHeartbeat [] := by
    simp [frameBytes, hkind]
  have hclass : classifyFrame s.cfg s.cfg.kindHeartbeat [] = .heartbeat := by
    simp [classifyFrame, Config.kindLen, hzero]
  rw [hword, exec_rxChunk_frameBytes (payload := []) hlink hbuf hwf (Nat.zero_le _) hcap, hclass,
    (heartbeatFrameIsEchoedAndClearsMisses _).2]
  simp [State.emit]

/-- Settles O49: after the Heartbeat the tick counts the first miss; before it the tick gives the session up,
and outside CONNECTED a chunk is discarded. -/
theorem tickAgainstHeartbeatRace : Obligations.TickAgainstHeartbeatRace := by
  intro s hlink hbuf hmiss hphase hlimit hcap hwf htabled
  refine ⟨?heartbeatFirst, ?tickFirst⟩
  case heartbeatFirst =>
    rw [runEvents, exec_rxChunk_heartbeat hlink hbuf hwf htabled hcap]
    dsimp only
    rw [runEvents, exec_tick_probe]
    · exact ⟨_, rfl, hlink, rfl⟩
    · exact hlink
    · exact hphase
    · exact hlimit
  case tickFirst =>
    rw [runEvents, exec_tick_timeout hlink hphase (by omega)]
    dsimp only
    rw [runEvents, exec_rxChunk_of_not_connected]
    · exact ⟨_, rfl, rfl, rfl⟩
    · nofun

/-! ### What the transport makes of an event's outputs (R33, R243 E4) -/

section
variable {i : Instr} {e e' : Endpoint}

/-- The transport reacts to transport commands only (R33). -/
theorem foldl_react_of_no_transition {os : List OutItem} (h : ∀ o ∈ os, o.ofTransition = false)
    (tr : Transport) : os.foldl Transport.react tr = tr := by
  induction os with
  | nil => rfl
  | cons o os ih =>
    obtain ⟨ho, hos⟩ := List.forall_mem_cons.1 h
    have hreact : tr.react o = tr := by
      cases o with
      | tpc | status => cases ho
      | _ => rfl
    rw [List.foldl_cons, hreact, ih hos]

/-- Of a transition's items it reacts to the command, if there is one. -/
theorem foldl_react_items (r : TransitionRow) (tr : Transport) :
    r.items.foldl Transport.react tr = (r.command.map OutItem.tpc).elim tr tr.react := by
  cases h : r.command <;> simp [TransitionRow.items, h, Transport.react]

theorem tpc_mem_items {r : TransitionRow} {c : TpCommand} :
    .tpc c ∈ r.items ↔ r.command = some c := by
  cases h : r.command <;> simp [TransitionRow.items, h, eq_comm]

/-- An event is executed, and the transport takes its outputs in order (E4). -/
theorem Endpoint.take_next (h : e.take i = .next e') :
    exec i e.core = .next e'.core ∧
      e'.transport = (newItems e.core e'.core).foldl Transport.react e.transport := by
  unfold Endpoint.take at h
  split at h
  · cases h
    exact ⟨‹_›, rfl⟩
  · cases h
  · cases h

/-- All that an event can do to link state and transport: nothing, and it outputs no command; or what a row of
R167 says, and the transport reacts to the row's command. -/
theorem Endpoint.take_cases (h : e.take i = .next e') :
    (e'.core.linkState = e.core.linkState ∧ e'.transport = e.transport ∧
      ∀ o ∈ newItems e.core e'.core, o.ofTransition = false) ∨
    ∃ r ∈ transitionTable, r.source = e.core.linkState ∧ r.event = i ∧
      r.target = e'.core.linkState ∧ newItems e.core e'.core = r.items ∧
      e'.transport = (r.command.map OutItem.tpc).elim e.transport e.transport.react := by
  obtain ⟨hexec, htr⟩ := Endpoint.take_next h
  have heff := exec_effect hexec
  by_cases hlink : e'.core.linkState = e.core.linkState
  · have hno := fun o => heff.ofTransition_eq_false hlink (o := o)
    exact .inl ⟨hlink, htr.trans (foldl_react_of_no_transition hno _), hno⟩
  · obtain ⟨r, hr, hsource, hevent, htarget, hitems⟩ := heff.exists_row hlink
    rw [hitems, foldl_react_items] at htr
    exact .inr ⟨r, hr, hsource, hevent, htarget, hitems, htr⟩

/-- The block answers a report of the transport with no command (R162, R164, R167). -/
theorem Endpoint.take_report_transport (hi : i = .tpUp ∨ i = .tpDown) (h : e.take i = .next e') :
    e'.transport = e.transport := by
  have hrow : ∀ r ∈ transitionTable, r.event = .tpUp ∨ r.event = .tpDown → r.command = none := by
    decide
  rcases Endpoint.take_cases h with ⟨-, htr, -⟩ | ⟨r, hr, -, rfl, -, -, htr⟩
  · exact htr
  · rw [htr, hrow r hr hi]
    rfl

/-- After a DISCONNECT or an ABORT the transport has neither attempt nor session (R33, E2). -/
theorem Endpoint.take_closes (h : e.take i = .next e')
    (hclose : .tpc .disconnect ∈ newItems e.core e'.core ∨ .tpc .abort ∈ newItems e.core e'.core) :
    e'.transport.attempt = false ∧ e'.transport.session = false := by
  rcases Endpoint.take_cases h with ⟨-, -, hno⟩ | ⟨r, -, -, -, -, hitems, htr⟩
  · rcases hclose with hmem | hmem <;> cases hno _ hmem
  · rw [hitems, tpc_mem_items, tpc_mem_items] at hclose
    rcases hclose with hc | hc <;> rw [htr, hc] <;> exact ⟨rfl, rfl⟩

end

/-! ### The moves of the environment (R243) -/

section
variable {n : Nat} {w : List Byte} {e e' : Endpoint}

theorem Endpoint.tpUp_refused (h : e.transport.attempt = false) :
    e.move .tpUp = .refused (.environmentDuty 1) := by
  simp [Endpoint.move, h]

theorem Endpoint.tpDown_refused (hattempt : e.transport.attempt = false)
    (hsession : e.transport.session = false) (hclosing : e.transport.closing = false) :
    e.move .tpDown = .refused (.environmentDuty 1) := by
  simp [Endpoint.move, hattempt, hsession, hclosing]

theorem Endpoint.deliver_refused_of_no_session (h : e.transport.session = false) :
    e.move (.deliver n) = .refused (.environmentDuty 2) := if_pos h

theorem Endpoint.arrive_refused (h : e.transport.session = false) :
    e.move (.arrive w) = .refused (.environmentDuty 3) := by
  simp [Endpoint.move, h]

theorem Endpoint.deliver_refused_of_too_many (hsession : e.transport.session = true)
    (h : e.transport.ingress.length < n ∨ e.core.cfg.chunkMax < n) :
    e.move (.deliver n) = .refused (.environmentDuty 3) := by
  have hnot : ¬ (n ≤ e.transport.ingress.length ∧ n ≤ e.core.cfg.chunkMax) := by omega
  simp [Endpoint.move, hsession, hnot]

/-- All that an application's event can do (E9). -/
theorem Endpoint.app_next {i : Instr} (h : e.move (.app i) = .next e') :
    isApplication i = true ∧ e.take i = .next e' := by
  simp only [Endpoint.move] at h
  split at h
  · rename_i hok
    exact ⟨(Bool.and_eq_true_iff.1 hok).1, h⟩
  · cases h

/-- All that a TP_UP can do: the open attempt becomes the session, and the block takes the event (E1). -/
theorem Endpoint.tpUp_next (h : e.move .tpUp = .next e') :
    e.transport.attempt = true ∧ exec .tpUp e.core = .next e'.core ∧
      e'.transport = { attempt := false, session := true, closing := false, ingress := [] } := by
  simp only [Endpoint.move] at h
  split at h
  · exact ⟨‹_›, (Endpoint.take_next h).1, Endpoint.take_report_transport (.inl rfl) h⟩
  · cases h

/-- All that a TP_DOWN can do: nothing stays open, and the block takes the event (E1, E2, E5). -/
theorem Endpoint.tpDown_next (h : e.move .tpDown = .next e') :
    exec .tpDown e.core = .next e'.core ∧ e'.transport = Transport.idle := by
  simp only [Endpoint.move] at h
  split at h
  · exact ⟨(Endpoint.take_next h).1, Endpoint.take_report_transport (.inr rfl) h⟩
  · cases h

/-- All that an arrival can do: the bytes join the ingress of the current session (E3, R59). -/
theorem Endpoint.arrive_next (h : e.move (.arrive w) = .next e') :
    e.transport.session = true ∧ e' = { e with transport := { e.transport with
      ingress := e.transport.ingress ++ w } } := by
  simp only [Endpoint.move] at h
  split at h
  · cases h
    exact ⟨‹_›, rfl⟩
  · cases h

end

/-- Settles O57: each refusal is the lemma of its move, at what the move or the event before it left of the
transport. -/
theorem environmentHasNoMoveThatBreaksADuty : Obligations.EnvironmentHasNoMoveThatBreaksADuty := by
  refine ⟨fun e n w => ⟨Endpoint.tpUp_refused, Endpoint.tpDown_refused,
    Endpoint.deliver_refused_of_no_session, Endpoint.arrive_refused,
    Endpoint.deliver_refused_of_too_many⟩, fun e e' h => ?up, fun e e' h => ?down,
    fun i e e' h hclose => ?closed⟩
  case up =>
    obtain ⟨-, -, htr⟩ := Endpoint.tpUp_next h
    exact Endpoint.tpUp_refused (by rw [htr])
  case down =>
    obtain ⟨-, htr⟩ := Endpoint.tpDown_next h
    exact Endpoint.tpDown_refused (by rw [htr]; rfl) (by rw [htr]; rfl) (by rw [htr]; rfl)
  case closed =>
    obtain ⟨hattempt, hsession⟩ := Endpoint.take_closes h hclose
    exact ⟨Endpoint.tpUp_refused hattempt,
      fun _ => Endpoint.deliver_refused_of_no_session hsession⟩

/-! ### Transport and supervisor agree (R243, R34) -/

/-- A transport agrees with a link state: an unanswered attempt exactly in CONNECTING, a current session
exactly in CONNECTED, and ingress bytes only in a session. -/
structure Transport.AgreesWith (tr : Transport) (l : LinkState) : Prop where
  attempt_iff : tr.attempt = true ↔ l = .connecting
  session_iff : tr.session = true ↔ l = .connected
  ingress : tr.session = false → tr.ingress = []

/-- It is what the model's check decides. -/
theorem Endpoint.agrees_iff (e : Endpoint) :
    e.agrees = true ↔ e.transport.AgreesWith e.core.linkState := by
  simp only [Endpoint.agrees, Bool.and_eq_true, Bool.or_eq_true, decide_eq_true_eq]
  constructor
  · rintro ⟨⟨hattempt, hsession⟩, hingress⟩
    exact ⟨by simp [hattempt], by simp [hsession], fun hno => by simpa [hno] using hingress⟩
  · rintro ⟨hattempt, hsession, hingress⟩
    refine ⟨⟨by simp [← hattempt], by simp [← hsession]⟩, ?_⟩
    cases h : e.transport.session
    · exact .inr (hingress h)
    · exact .inl rfl

namespace Transport.AgreesWith

/-- A transport with nothing open agrees with the two link states in which nothing is. -/
theorem of_nothing_open {tr : Transport} {l : LinkState} (hattempt : tr.attempt = false)
    (hsession : tr.session = false) (hingress : tr.ingress = [])
    (hl : l = .disconnected ∨ l = .reconnecting) : tr.AgreesWith l := by
  rcases hl with rfl | rfl <;> exact ⟨by simp [hattempt], by simp [hsession], fun _ => hingress⟩

/-- A row of R167 that is no report of the transport keeps the agreement: CONNECT goes with CONNECTING,
DISCONNECT and ABORT with a state in which nothing is open, and the row without a command stays among
those. -/
theorem of_row {tr : Transport} {r : TransitionRow} (hr : r ∈ transitionTable)
    (hup : r.event ≠ .tpUp) (hdown : r.event ≠ .tpDown) (h : tr.AgreesWith r.source) :
    ((r.command.map OutItem.tpc).elim tr tr.react).AgreesWith r.target := by
  have hconnect : ∀ r ∈ transitionTable, r.command = some .connect → r.target = .connecting := by
    decide
  have hclose : ∀ r ∈ transitionTable, r.command = some .disconnect ∨ r.command = some .abort →
      r.target = .disconnected ∨ r.target = .reconnecting := by decide
  have hsilent : ∀ r ∈ transitionTable, r.command = none → r.event ≠ .tpUp → r.event ≠ .tpDown →
      r.source = .reconnecting ∧ r.target = .disconnected := by decide
  cases hc : r.command with
  | none =>
    obtain ⟨hsource, htarget⟩ := hsilent r hr hc hup hdown
    rw [hsource] at h
    rw [htarget]
    exact ⟨by simp [h.attempt_iff], by simp [h.session_iff], h.ingress⟩
  | some c =>
    cases c with
    | connect =>
      rw [hconnect r hr hc]
      exact ⟨by simp [react], by simp [react], fun _ => rfl⟩
    | disconnect => exact of_nothing_open rfl rfl rfl (hclose r hr (.inl hc))
    | abort => exact of_nothing_open rfl rfl rfl (hclose r hr (.inr hc))

end Transport.AgreesWith

/-- After TP_DOWN the block is in neither CONNECTING nor CONNECTED (R164). -/
theorem exec_tpDown_linkState {s t : State} (h : exec .tpDown s = .next t) :
    t.linkState = .disconnected ∨ t.linkState = .reconnecting := by
  cases hlink : s.linkState with
  | disconnected =>
    rw [exec_tpDown_of_closed (.inl hlink)] at h
    cases h
    exact .inl hlink
  | reconnecting =>
    rw [exec_tpDown_of_closed (.inr hlink)] at h
    cases h
    exact .inr hlink
  | connecting =>
    rw [exec_tpDown_of_connecting hlink] at h
    cases h
    exact .inr rfl
  | connected =>
    rw [exec_tpDown_of_connected hlink] at h
    cases h
    exact .inr rfl

section
variable {e e' : Endpoint}

/-- An event that is no report of the transport keeps the agreement. -/
theorem Endpoint.agrees_of_take {i : Instr} (hup : i ≠ .tpUp) (hdown : i ≠ .tpDown)
    (hagree : e.agrees = true) (h : e.take i = .next e') : e'.agrees = true := by
  rw [Endpoint.agrees_iff] at hagree ⊢
  rcases Endpoint.take_cases h with ⟨hlink, htr, -⟩ | ⟨r, hr, hsource, rfl, htarget, -, htr⟩
  · rwa [hlink, htr]
  · rw [htr, ← htarget]
    exact .of_row hr hup hdown (hsource ▸ hagree)

/-- A TP_UP answers the attempt of CONNECTING and enters CONNECTED with it (E1, R162). -/
theorem Endpoint.agrees_of_tpUp (hagree : e.agrees = true) (h : e.move .tpUp = .next e') :
    e'.agrees = true := by
  rw [Endpoint.agrees_iff] at hagree ⊢
  obtain ⟨hattempt, hexec, htr⟩ := Endpoint.tpUp_next h
  rw [exec_tpUp_of_connecting (hagree.attempt_iff.1 hattempt)] at hexec
  rw [htr, ← Host.Outcome.next.inj hexec]
  exact ⟨by simp, by simp, fun _ => rfl⟩

/-- A TP_DOWN leaves nothing open at either side (E1, E2, R164). -/
theorem Endpoint.agrees_of_tpDown (h : e.move .tpDown = .next e') : e'.agrees = true := by
  obtain ⟨hexec, htr⟩ := Endpoint.tpDown_next h
  rw [Endpoint.agrees_iff, htr]
  exact .of_nothing_open rfl rfl rfl (exec_tpDown_linkState hexec)

/-- The bytes in the ingress of a session are not spoken of. -/
theorem Endpoint.agrees_with_ingress (hagree : e.agrees = true) (hsession : e.transport.session = true)
    (w : List Byte) :
    Endpoint.agrees { e with transport := { e.transport with ingress := w } } = true := by
  rw [Endpoint.agrees_iff] at hagree ⊢
  exact { hagree with ingress := fun hno => nomatch hsession.symm.trans hno }

/-- Every move of the environment keeps the agreement. -/
theorem Endpoint.agrees_of_move {m : Move} (hagree : e.agrees = true) (h : e.move m = .next e') :
    e'.agrees = true := by
  cases m with
  | app i =>
    obtain ⟨happ, htake⟩ := Endpoint.app_next h
    have hne : i ≠ .tpUp ∧ i ≠ .tpDown := by constructor <;> rintro rfl <;> cases happ
    exact Endpoint.agrees_of_take hne.1 hne.2 hagree htake
  | tick => exact Endpoint.agrees_of_take (i := .tick) nofun nofun hagree h
  | tpUp => exact Endpoint.agrees_of_tpUp hagree h
  | tpDown => exact Endpoint.agrees_of_tpDown h
  | arrive w =>
    obtain ⟨hsession, rfl⟩ := Endpoint.arrive_next h
    exact Endpoint.agrees_with_ingress hagree hsession _
  | deliver n =>
    obtain ⟨hsession, -, htake⟩ := Endpoint.deliver_next h
    exact Endpoint.agrees_of_take (i := .rxChunk _) nofun nofun
      (Endpoint.agrees_with_ingress hagree hsession _) htake

/-- So does every sequence of moves. -/
theorem Endpoint.agrees_of_run {ms : List Move} (hagree : e.agrees = true)
    (h : e.run ms = .next e') : e'.agrees = true := by
  induction ms generalizing e with
  | nil =>
    cases h
    exact hagree
  | cons m ms ih =>
    rw [Endpoint.run] at h
    split at h
    · exact ih (Endpoint.agrees_of_move hagree ‹_›) h
    · cases h
    · cases h

end

/-! ### The two ends of a pair agree (R64; log entry 21) -/

/-- No more bytes count to a session that was left than are in flight. -/
def Wire.StaleInFlight (w : Wire) : Prop := w.stale ≤ w.bytes.length

namespace Wire.StaleInFlight

variable {w : Wire}

theorem write (h : w.StaleInFlight) (b : List Byte) : (w.write b).StaleInFlight :=
  h.trans (by simp)

theorem drop (h : w.StaleInFlight) (n : Nat) : (w.drop n).StaleInFlight := by
  simpa [StaleInFlight] using Nat.sub_le_sub_right h n

theorem leave (w : Wire) : w.leave.StaleInFlight := Nat.le_refl _

end Wire.StaleInFlight

/-- The agreement of a pair, by name. -/
structure Pair.Agrees (p : Pair) : Prop where
  left : p.left.agrees = true
  right : p.right.agrees = true
  toRight : p.toRight.StaleInFlight
  toLeft : p.toLeft.StaleInFlight

/-- It is what the model's check decides. -/
theorem Pair.agrees_iff (p : Pair) : p.agrees = true ↔ p.Agrees := by
  simp only [Pair.agrees, Bool.and_eq_true, decide_eq_true_eq]
  constructor
  · rintro ⟨⟨⟨hleft, hright⟩, hto⟩, hfrom⟩
    exact ⟨hleft, hright, hto, hfrom⟩
  · rintro ⟨hleft, hright, hto, hfrom⟩
    exact ⟨⟨⟨hleft, hright⟩, hto⟩, hfrom⟩

namespace Pair.Agrees

variable {p p' : Pair}

/-- It is the same seen from the other end. -/
theorem mirror (h : p.Agrees) : p.mirror.Agrees := ⟨h.right, h.left, h.toLeft, h.toRight⟩

theorem of_moveLeft {m : Move} (h : p.Agrees) (hmove : p.moveLeft m = .next p') : p'.Agrees := by
  obtain ⟨-, hleft, hright, hto, hfrom⟩ := Pair.moveLeft_next hmove
  refine ⟨Endpoint.agrees_of_move h.left hleft, hright ▸ h.right, hto ▸ h.toRight.write _, ?_⟩
  rw [hfrom]
  split
  · exact .leave _
  · exact h.toLeft

theorem of_carry {n : Nat} (h : p.Agrees) (hmove : p.carry n = .next p') : p'.Agrees := by
  obtain ⟨-, hright, hp'⟩ := Pair.carry_next hmove
  rw [hp']
  exact { h with right := Endpoint.agrees_of_move h.right hright, toRight := h.toRight.drop n }

theorem of_lose {n : Nat} (h : p.Agrees) (hmove : p.lose n = .next p') : p'.Agrees := by
  obtain ⟨-, -, hp'⟩ := Pair.lose_next hmove
  rw [hp']
  exact { h with toRight := h.toRight.drop n }

/-- What keeps the agreement at one end keeps it, mirrored, at the other. -/
theorem of_mirrorOutcome {o : Host.Outcome Pair Fault Refusal} (h : mirrorOutcome o = .next p')
    (hkeep : ∀ q, o = .next q → q.Agrees) : p'.Agrees :=
  (hkeep _ (mirrorOutcome_eq_next.1 h)).mirror

/-- Every move of a pair keeps the agreement. -/
theorem of_move {m : PairMove} (h : p.Agrees) (hmove : p.move m = .next p') : p'.Agrees := by
  cases m with
  | left m => exact h.of_moveLeft hmove
  | right m => exact of_mirrorOutcome hmove fun _ => h.mirror.of_moveLeft
  | carryLeft n => exact of_mirrorOutcome hmove fun _ => h.mirror.of_carry
  | carryRight n => exact h.of_carry hmove
  | loseLeft n => exact of_mirrorOutcome hmove fun _ => h.mirror.of_lose
  | loseRight n => exact h.of_lose hmove

/-- So does every sequence of moves. -/
theorem of_run {ms : List PairMove} (h : p.Agrees) (hrun : p.run ms = .next p') : p'.Agrees := by
  induction ms generalizing p with
  | nil =>
    cases hrun
    exact h
  | cons m ms ih =>
    rw [Pair.run] at hrun
    split at hrun
    · exact ih (h.of_move ‹_›) hrun
    · cases hrun
    · cases hrun

end Pair.Agrees

/-- Settles O58: reset has nothing open, and every move of an endpoint and of a pair keeps the agreement. -/
theorem transportAndSupervisorStayInAgreement :
    Obligations.TransportAndSupervisorStayInAgreement :=
  ⟨fun _ => rfl, fun _ _ _ => Endpoint.agrees_of_run, fun _ _ => rfl,
    fun _ p p' hagree hrun => (Pair.agrees_iff p').2 (((Pair.agrees_iff p).1 hagree).of_run hrun)⟩

end Sys2Proof.Machine
end

section
/-! PROOFS. The typed TX events in a configuration whose `MAX_PAYLOAD` their payload does not fit
(40_codec.md R111, log entry 19). -/

namespace Sys2Proof.Machine

/-- Settles O22: the parts of TX_MOVE, TX_CONTROL and TX_TARGET are six, four and four bytes long, so each
is the too large case of its `TxSend`. -/
theorem typedTxEventsRaiseWhereTheirPayloadDoesNotFit :
    Obligations.TypedTxEventsRaiseWhereTheirPayloadDoesNotFit := by
  intro s
  refine ⟨fun hmax f l r => ?move, fun hmax => ⟨fun p q mode => ?control, fun x y => ?target⟩⟩
  case move => exact exec_raises_of_txPart rfl (by simpa only [List.length_append, wrI16_length])
  case control => exact exec_raises_of_txPart (i := .txControl p q mode) rfl hmax
  case target => exact exec_raises_of_txPart rfl (by simpa only [List.length_append, wrI16_length])

end Sys2Proof.Machine
end
